-- ==== Sys2Proof/Word.lean ====
section
/-! DEFINITION. The machine's two value types: 32-bit words and 8-bit bytes (00_scope.md R7, R9). -/

namespace Sys2Proof

/-- `u32`: an unsigned 32-bit value; `+`, `-`, `*` wrap modulo 2^32 and the bitwise operators act on 32 bits
(00_scope.md R7, R8). -/
abbrev Word := BitVec 32

/-- `u8`: an unsigned 8-bit value (00_scope.md R9). -/
abbrev Byte := BitVec 8

end Sys2Proof
end

