-- ==== Sys2Proof/Syntax.lean ====
section
/-! DEFINITION. The command set: one constructor per row of spec/opcode_table.json (30_encoding.md R49). -/

namespace Sys2Proof

/-- The six commands. None has a field: a command word carries only its opcode (R49), no command has an immediate (R51), and
the operands are the values of ARG0 to ARG3 at the moment CMD is written (R50). -/
inductive Instr where
  | seed      -- SEED, opcode 0x01 (40_generator.md R64)
  | extract   -- EXTRACT, opcode 0x02 (40_generator.md R65)
  | crypt     -- CRYPT, opcode 0x03 (41_stream_cipher.md R70)
  | gentoken  -- GENTOKEN, opcode 0x04 (42_seed_search.md R74)
  | validate  -- VALIDATE, opcode 0x05 (42_seed_search.md R77)
  | brute     -- BRUTE, opcode 0x06 (42_seed_search.md R81)
  deriving DecidableEq, Repr

end Sys2Proof
end

