-- ==== Sys2Proof/Decode.lean ====
section
/-! DEFINITION. The decoder, total on every 32-bit word (30_encoding.md R52), and the encoder (R49, R59). -/

namespace Sys2Proof

/-- Why a word is illegal (30_encoding.md R52). DESIGN CHOICE (log 9): the spec has one ILLEGAL; the two names only say which
line of R52 rejects the word, and nothing the host sees tells them apart. Safe. -/
inductive IllegalWord where
  /-- `w[31:8] != 0`: a set bit in RSV (R53). -/
  | reservedBitSet
  /-- `w[7:0]` is 0x00 or one of 0x07..0xFF. -/
  | noSuchOpcode
  deriving DecidableEq, Repr

/-- What `decode` answers: a command, or ILLEGAL with its reason. -/
inductive Decoded where
  | command (i : Instr)
  | illegal (why : IllegalWord)
  deriving DecidableEq, Repr

/-- RSV, bits 31:8 of a command word (R49). -/
def rsvField (w : Word) : BitVec 24 := w.extractLsb' 8 24

/-- OPC, bits 7:0 of a command word (R49). -/
def opcField (w : Word) : Byte := w.extractLsb' 0 8

/-- The command an opcode stands for: the opcode map of R49. -/
def commandOfOpcode (opc : Byte) : Option Instr :=
  match opc.toNat with
  | 0x01 => some .seed
  | 0x02 => some .extract
  | 0x03 => some .crypt
  | 0x04 => some .gentoken
  | 0x05 => some .validate
  | 0x06 => some .brute
  | _    => none

/-- `decode` of R52, total on every word. -/
def decode (w : Word) : Decoded :=
  if rsvField w = 0 then
    match commandOfOpcode (opcField w) with
    | some i => .command i
    | none   => .illegal .noSuchOpcode
  else .illegal .reservedBitSet

/-- The opcode of a command: the opcode map of R49. -/
def opcode : Instr → Byte
  | .seed     => 0x01
  | .extract  => 0x02
  | .crypt    => 0x03
  | .gentoken => 0x04
  | .validate => 0x05
  | .brute    => 0x06

/-- A command's word: `zext_32(OPC)` (R59). -/
def encode (i : Instr) : Word := (opcode i).zeroExtend 32

/-- The word whose low `nbits` bits are those of `w`, every higher bit 0. A command is one 32-bit word (R49), so bit 0 of the
table's numbering is bit 0 of that word (DESIGN CHOICE, log 12). -/
def tableWord (nbits w : Nat) : Word := BitVec.ofNat 32 (w % 2 ^ nbits)

/-- What the decoder reads from a word numbered as spec/opcode_table.json numbers it. -/
def decodeTableWord (nbits w : Nat) : Option Instr :=
  match decode (tableWord nbits w) with
  | .command i => some i
  | .illegal _ => none

end Sys2Proof
end

