-- ==== Sys2Proof/Config.lean ====
section
/-! DEFINITION. What is fixed for the machine: the generator's constants (00_scope.md R5), the core's other parameters
(R6), what an unlisted byte of buffer memory reads as, and the values the spec leaves open. -/

namespace Sys2Proof.Config

/-- N: the number of words in the state vector (00_scope.md R5). -/
abbrev N : Nat := 624

/-- M: the middle-word offset the twist uses (R5). -/
abbrev M : Nat := 397

/-- UPPER_MASK: bit 31 (R5). -/
def upperMask : Word := 0x80000000

/-- LOWER_MASK: bits 30..0 (R5). -/
def lowerMask : Word := 0x7FFFFFFF

/-- A: the twist matrix constant (R5, 90_conflicts.md C1). -/
def twistMatrix : Word := 0x9908B0DF

/-- F: the multiplier of the seed recurrence (R5). -/
def seedMultiplier : Word := 1812433253

/-- The shift W - 2 of the seed recurrence (40_generator.md R60). -/
def seedShift : Nat := 30

/-- U: tempering shift 1, right (R5). -/
def temperU : Nat := 11

/-- S: tempering shift 2, left (R5). -/
def temperS : Nat := 7

/-- B: tempering mask 2 (R5). -/
def temperB : Word := 0x9D2C5680

/-- T: tempering shift 3, left (R5). -/
def temperT : Nat := 15

/-- C: tempering mask 3 (R5). -/
def temperC : Word := 0xEFC60000

/-- L: tempering shift 4, right (R5). -/
def temperL : Nat := 18

/-- SEED_SPACE: how many candidate seeds BRUTE examines (R6). -/
abbrev seedSpace : Nat := 65536

/-- TOKEN_LEN: a token's length in bytes (R6). -/
abbrev tokenLen : Nat := 32

/-- ADDR_WIDTH: the width of a buffer-memory byte address (R6, U14). DESIGN CHOICE (log 6): fixed at the spec's 32. Safe. -/
abbrev addrWidth : Nat := 32

/-- The number of bytes of buffer memory (20_memory.md R34). -/
abbrev bmSize : Nat := 2 ^ addrWidth

/-- The number of bytes of the register window (10_state.md R23). -/
abbrev windowSize : Nat := 32

/-- What a byte of buffer memory that nothing has written reads as. DESIGN CHOICE (log 2): the spec gives buffer memory no
contents of its own; 0 is the start state of the programs of 95_test_vectors.md L3. Unsafe. -/
def unlistedByte : Byte := 0

/-- WINDOW_BASE: the bus address of the register window, a platform parameter the spec leaves OPEN (10_state.md R23, U13;
log 5). It has no body: nothing depends on its value. -/
opaque windowBase : Nat

/-- The free value of `G0.MT` after a reset (10_state.md R33, U6: "any value (a draw)"; log 1): word `i` of draw `d`. It has
no body: nothing can evaluate it. -/
opaque resetWord (d i : Nat) : Word

end Sys2Proof.Config
end

