-- ==== Sys2Proof/Machine/HostOp.lean ====
section
/-! DEFINITION. What the host can do to the machine (10_state.md R15, 30_encoding.md R55, R58), as data. -/

namespace Sys2Proof.Machine

/-- The registers of the window, at the offsets of 10_state.md R23. -/
inductive WindowReg where
  | cmd | arg0 | arg1 | arg2 | arg3 | result | status | reserved
  deriving DecidableEq, Repr

/-- One host access to the window: the byte offset from WINDOW_BASE and the number of bytes accessed. The interface allows
only `bytes = 4` at a word-aligned offset in 0x00..0x1C (R29); the other values are here so that the model can refuse them. -/
structure WindowAccess where
  offset : Nat
  bytes  : Nat
  deriving DecidableEq, Repr

/-- One host operation (R15): the tuples of 30_encoding.md R58, and the reset event (70_reset_and_hazards.md R106). -/
inductive HostOp where
  /-- `(W, offset, value)`: a register write. -/
  | write (at_ : WindowAccess) (value : Word)
  /-- `(R, offset)`: a register read. -/
  | read (at_ : WindowAccess)
  /-- `(MW, addr, bytes)`: a write of bytes into buffer memory at ascending addresses. -/
  | memWrite (addr : Nat) (bytes : List Byte)
  /-- `(MR, addr, len)`: a read of `len` bytes of buffer memory. -/
  | memRead (addr len : Nat)
  /-- The reset event. -/
  | reset
  deriving DecidableEq, Repr

/-- What one host read returned. -/
inductive HostRead where
  | word (value : Word)
  | bytes (values : List Byte)
  deriving DecidableEq, Repr

namespace WindowAccess

/-- A whole, word-aligned access at a byte offset (R29). -/
abbrev whole (offset : Nat) : WindowAccess := ⟨offset, 4⟩

/-- The bus address of an access (R23): offsets are counted from WINDOW_BASE, which the spec leaves open. -/
def busAddress (a : WindowAccess) : Nat := Config.windowBase + a.offset

end WindowAccess

/-- A register's byte offset in the window (R23). -/
def WindowReg.offset : WindowReg → Nat
  | .cmd      => 0x00
  | .arg0     => 0x04
  | .arg1     => 0x08
  | .arg2     => 0x0C
  | .arg3     => 0x10
  | .result   => 0x14
  | .status   => 0x18
  | .reserved => 0x1C

end Sys2Proof.Machine
end

