-- ==== Sys2Proof/Machine/State.lean ====
section
/-! DEFINITION. The state, the reasons a step can stop, and the state after reset (10_state.md R16, R33). -/

namespace Sys2Proof.Machine

/-- Why the machine stops with a fault. The spec's own faults (60_exceptions.md R86) are none of these: they are state
(`State.fault`), and the machine goes on. -/
inductive Fault where
  /-- Raised by a host memory write or read that runs past the top of buffer memory: those addresses do not exist
  (20_memory.md R34). DEDUCED (log 8). Safe: the model stops where the spec gives no effect. -/
  | noSuchAddress
  deriving DecidableEq, Repr

/-- Why the machine refuses a step. -/
inductive Refusal where
  /-- Raised by an arm of `exec` whose command has no meaning yet (none has that now). Safe. -/
  | notModelled (mnemonic : String)
  /-- Raised by a host window access that is not four bytes wide (10_state.md R29, U10). Safe. -/
  | notWholeWord
  /-- Raised by a host window access at an offset that is not a multiple of four (R29, U10). Safe. -/
  | misaligned
  /-- Raised by a host window access outside 0x00..0x1C (R28, R29, U10). Safe. -/
  | outOfWindow
  deriving DecidableEq, Repr

/-- The fault codes the core records (60_exceptions.md R86). `STATUS.FAULT = 0` is "not faulted"; codes 7..15 are reserved
and never produced. -/
inductive FaultCode where
  | illegalCmd | unseeded | outbufShort | maxageInvalid | suffixLong | range
  deriving DecidableEq, Repr

/-- A generator's state vector: N words (10_state.md R18). -/
abbrev MtVector := Vector Word Config.N

/-- A generator (10_state.md R16, R18 to R20): the state vector, the cursor in 0..N, and whether it was seeded. -/
structure Generator where
  mt     : MtVector
  idx    : Fin (Config.N + 1)
  seeded : Bool
  deriving DecidableEq, Repr

/-- Buffer memory (20_memory.md R34): the bytes that differ from what an unlisted byte reads as, by rising address. -/
structure Memory where
  cells : List Host.Cell
  deriving DecidableEq, Repr

/-- The canonical form: addresses strictly rising, all inside buffer memory, and no byte equal to what an unlisted byte
reads as. -/
abbrev Memory.wf (m : Memory) : Prop :=
  m.cells.Pairwise (fun c d => c.1 < d.1) ∧ ∀ c ∈ m.cells, c.1 < Config.bmSize ∧ c.2 ≠ Config.unlistedByte

/-- The architectural state of R16, and three fields of the model's own: the host's pending operations, what its reads have
returned, and the number of draws that resets have used. -/
structure State where
  /-- `G0`, the host-visible generator (R16, R18). -/
  g0     : Generator
  /-- `ARG0` (R25). -/
  arg0   : Word
  /-- `ARG1` (R25). -/
  arg1   : Word
  /-- `ARG2` (R25). -/
  arg2   : Word
  /-- `ARG3` (R25). -/
  arg3   : Word
  /-- `RESULT` (R26). -/
  result : Word
  /-- `STATUS.FOUND` (R27). -/
  found  : Bool
  /-- `STATUS.FAULT`, 0..15 (R27, 60_exceptions.md R86). -/
  fault  : BitVec 4
  /-- `BM`, buffer memory (20_memory.md R34). -/
  bm     : Memory
  /-- The model's own: the host operations still to come, oldest first (R15; DESIGN CHOICE, log 3). -/
  hostOps    : List HostOp
  /-- The model's own: what the host's reads have returned, oldest first (R15; DESIGN CHOICE, log 4). -/
  hostReads  : List HostRead
  /-- The model's own: how many draws of the unspecified `G0.MT` the resets have used (R33; DESIGN CHOICE, log 1). -/
  resetDraws : Nat
  deriving DecidableEq, Repr

/-- `G0` after a reset (R33): the state vector is draw `d` of the free value, the cursor is N, and it is not seeded. -/
def Generator.unseeded (d : Nat) : Generator :=
  { mt := Vector.ofFn fun i => Config.resetWord d i.val, idx := Fin.last Config.N, seeded := false }

/-- The machine right after reset (R33). No host operation is pending (log 3) and buffer memory lists nothing (log 2). -/
def State.reset : State :=
  { g0 := .unseeded 0
    arg0 := 0
    arg1 := 0
    arg2 := 0
    arg3 := 0
    result := 0
    found := false
    fault := 0
    bm := ⟨[]⟩
    hostOps := []
    hostReads := []
    resetDraws := 1 }

end Sys2Proof.Machine
end

