-- ==== Sys2Proof/Machine/Ops.lean ====
section
/-! DEFINITION. The shared operations: reading and writing buffer memory (20_memory.md), writing each piece of the state,
faulting, running a command behind its checks (60_exceptions.md R93 to R95), and the reset event (70_reset_and_hazards.md
R106). -/

namespace Sys2Proof.Machine

/-! ## Buffer memory (20_memory.md R38, R43) -/

/-- `MemRead(addr, 1)`: one byte (R38); it has no side effect (R43). -/
def Memory.read (m : Memory) (addr : Nat) : Byte :=
  match m.cells.find? (fun c => c.1 == addr) with
  | some c => c.2
  | none   => Config.unlistedByte

/-- Put a cell before the first cell with a higher address. -/
def insertCell (addr : Nat) (v : Byte) : List Host.Cell → List Host.Cell
  | []      => [(addr, v)]
  | c :: cs => if addr < c.1 then (addr, v) :: c :: cs else c :: insertCell addr v cs

/-- `MemWrite(addr, 1, v)`: one byte (R38). Writing the value an unlisted byte reads as removes the cell, so that equal
memories are equal lists. -/
def Memory.write (m : Memory) (addr : Nat) (v : Byte) : Memory :=
  let others := m.cells.filter (fun c => c.1 != addr)
  ⟨if v = Config.unlistedByte then others else insertCell addr v others⟩

/-- The bytes at `base`, `base + 1`, …, `base + len - 1` (R38). -/
def Memory.readBytes (m : Memory) (base len : Nat) : List Byte :=
  (List.range len).map fun j => m.read (base + j)

/-- Write bytes at ascending addresses from `base` (R42). -/
def Memory.writeBytes (m : Memory) (base : Nat) : List Byte → Memory
  | []      => m
  | b :: bs => (m.write base b).writeBytes (base + 1) bs

/-! ## Writing the state's fields, one operation each -/

namespace State

def setG0 (s : State) (g : Generator) : State := { s with g0 := g }
def setArg0 (s : State) (v : Word) : State := { s with arg0 := v }
def setArg1 (s : State) (v : Word) : State := { s with arg1 := v }
def setArg2 (s : State) (v : Word) : State := { s with arg2 := v }
def setArg3 (s : State) (v : Word) : State := { s with arg3 := v }
def setResult (s : State) (v : Word) : State := { s with result := v }
def setFound (s : State) (b : Bool) : State := { s with found := b }
def setFault (s : State) (c : BitVec 4) : State := { s with fault := c }
def setBm (s : State) (m : Memory) : State := { s with bm := m }
def setHostOps (s : State) (ops : List HostOp) : State := { s with hostOps := ops }

/-- Record what a host read returned. -/
def logRead (s : State) (r : HostRead) : State := { s with hostReads := s.hostReads ++ [r] }

end State

/-! ## Faults (60_exceptions.md) -/

/-- The code of R86. -/
def FaultCode.code : FaultCode → BitVec 4
  | .illegalCmd    => 1
  | .unseeded      => 2
  | .outbufShort   => 3
  | .maxageInvalid => 4
  | .suffixLong    => 5
  | .range         => 6

/-- The core is faulted when `STATUS.FAULT != 0` (10_state.md R30). -/
def State.faulted (s : State) : Bool := s.fault != 0

/-- `raise Fault(code)` (R94): STATUS.FAULT takes the code, and nothing else happens. There is no return from a fault but
reset (R96). -/
def State.raiseFault (s : State) (c : FaultCode) : State := s.setFault c.code

/-- The first check that fails, in the order given: a command reports exactly one fault (R95). -/
def firstFault : List (Bool × FaultCode) → Option FaultCode
  | []              => none
  | (fails, c) :: t => if fails then some c else firstFault t

/-- Run a command behind its checks. A faulted core executes no command and keeps its state (10_state.md R24, R30; DEDUCED,
log 10); otherwise every check is made before any state changes (R93), in order (R95), and the command has its effect only
when none fails. -/
def runCommand (s : State) (checks : List (Bool × FaultCode)) (effect : Unit → State) :
    Host.Outcome State Fault Refusal :=
  if s.faulted then .next s
  else match firstFault checks with
    | some c => .next (s.raiseFault c)
    | none   => .next (effect ())

/-- A CMD write of a word that decodes to ILLEGAL (60_exceptions.md R87): the fault, and no other effect. -/
def illegalCommand (s : State) : Host.Outcome State Fault Refusal :=
  runCommand s [(true, .illegalCmd)] fun _ => s

/-! ## Reset (70_reset_and_hazards.md R106) -/

/-- The reset event: every piece of core state takes its value of 10_state.md R33, which ends the faulted condition; buffer
memory is not touched. `G0.MT` is the next draw of the free value (log 1); what the host still has to do and what it has read
are not the core's. -/
def State.coreReset (s : State) : State :=
  { s with
    g0 := .unseeded s.resetDraws
    arg0 := 0
    arg1 := 0
    arg2 := 0
    arg3 := 0
    result := 0
    found := false
    fault := 0
    resetDraws := s.resetDraws + 1 }

end Sys2Proof.Machine
end

