-- ==== Sys2Proof/Machine/Operands.lean ====
section
/-! DEFINITION. How commands take their operands from ARG0 to ARG3 (30_encoding.md R50, R51), and the buffers they name
(20_memory.md R36, R41). -/

namespace Sys2Proof.Machine

/-- A buffer `(base, len)`: byte j is at address `base + j` (20_memory.md R38). Both are unbounded integers here (R41). -/
structure Buffer where
  base : Nat
  len  : Nat
  deriving DecidableEq, Repr

/-- A buffer is valid when `base + len <= 2^ADDR_WIDTH` in unbounded integers (R41); addresses never wrap. -/
def Buffer.valid (b : Buffer) : Bool := decide (b.base + b.len ≤ Config.bmSize)

/-- The buffer's bytes, by position. -/
def Memory.buffer (m : Memory) (b : Buffer) : List Byte := m.readBytes b.base b.len

/-- `s32(v)`: the two's-complement signed reading (00_scope.md R9). -/
def s32 (v : Word) : Int := v.toInt

namespace State

/-- SEED.VALUE and GENTOKEN.SEED: ARG0, all 32 bits (R50, R51). -/
def seedOperand (s : State) : Word := s.arg0

/-- CRYPT's input buffer `(ARG0, ARG2)` (R50, 20_memory.md R36). -/
def cryptIn (s : State) : Buffer := ⟨s.arg0.toNat, s.arg2.toNat⟩

/-- CRYPT's declared output buffer `(ARG1, ARG3)` (R50, 20_memory.md R36). -/
def cryptOut (s : State) : Buffer := ⟨s.arg1.toNat, s.arg3.toNat⟩

/-- GENTOKEN's output buffer `(ARG1, 32)` (R50, R92). -/
def tokenOut (s : State) : Buffer := ⟨s.arg1.toNat, Config.tokenLen⟩

/-- VALIDATE's token buffer `(ARG0, ARG1)` (R50). -/
def tokenIn (s : State) : Buffer := ⟨s.arg0.toNat, s.arg1.toNat⟩

/-- VALIDATE.MAX_AGE: `s32(ARG2)` (R50, R51). -/
def maxAge (s : State) : Int := s32 s.arg2

/-- VALIDATE.NOW: ARG3 (R50). -/
def nowOperand (s : State) : Word := s.arg3

/-- BRUTE's ciphertext buffer `(ARG0, ARG1)` (R50). -/
def cipherIn (s : State) : Buffer := ⟨s.arg0.toNat, s.arg1.toNat⟩

/-- BRUTE's known-suffix buffer `(ARG2, ARG3)` (R50). -/
def suffixIn (s : State) : Buffer := ⟨s.arg2.toNat, s.arg3.toNat⟩

end State

end Sys2Proof.Machine
end

