-- ==== Sys2Proof/Machine/Generator.lean ====
section
/-! DEFINITION. The generator (40_generator.md): INIT, TWIST, TEMPER, NEXT, and the commands SEED and EXTRACT. -/

namespace Sys2Proof.Machine

/-! ## INIT, the seed recurrence (R60) -/

/-- One step of the seed recurrence: `mt[i]` from `mt[i-1]` (R60). -/
def seedStep (i : Nat) (prev : Word) : Word :=
  Config.seedMultiplier * (prev ^^^ (prev >>> Config.seedShift)) + BitVec.ofNat 32 i

/-- `count` words of the recurrence from index `i` on, after the word `prev`. -/
def seedWords (prev : Word) (i : Nat) : Nat → List Word
  | 0         => []
  | count + 1 => seedStep i prev :: seedWords (seedStep i prev) (i + 1) count

theorem seedWords_length (prev : Word) (i count : Nat) : (seedWords prev i count).length = count := by
  induction count generalizing prev i with
  | zero => rfl
  | succ n ih => simp [seedWords, ih]

/-- `INIT(v)` (R60): `mt[0] = v`, then the recurrence for i = 1, …, N-1. -/
def init (v : Word) : MtVector :=
  ⟨(v :: seedWords v 1 (Config.N - 1)).toArray, by simp [seedWords_length]⟩

/-! ## TWIST, the full-state regeneration (R61) -/

/-- Word `k mod N` of a state vector. -/
def wordAt (mt : MtVector) (k : Nat) : Word :=
  mt[k % Config.N]'(Nat.mod_lt k (by decide))

/-- The twist's mixing of one word with the next: the upper bit of one, the lower bits of the other, shifted, and the twist
matrix constant XORed in when the combined word is odd (R61). -/
def twistMix (this next : Word) : Word :=
  let y := (this &&& Config.upperMask) ||| (next &&& Config.lowerMask)
  if y.getLsbD 0 then (y >>> 1) ^^^ Config.twistMatrix else y >>> 1

/-- The word that step i of TWIST writes, from the CURRENT contents of the vector (R61). -/
def twistWord (mt : MtVector) (i : Nat) : Word :=
  wordAt mt (i + Config.M) ^^^ twistMix (wordAt mt i) (wordAt mt (i + 1))

/-- Step i of TWIST, in place (R61). -/
def twistStep (mt : MtVector) (i : Nat) : MtVector :=
  mt.set (i % Config.N) (twistWord mt i) (Nat.mod_lt i (by decide))

/-- Steps 0, 1, …, `count - 1` of TWIST, in that order. -/
def twistSteps (mt : MtVector) : Nat → MtVector
  | 0     => mt
  | i + 1 => twistStep (twistSteps mt i) i

/-- `TWIST` (R61): all N words, in place and in order. It does not touch the cursor. -/
def twist (mt : MtVector) : MtVector := twistSteps mt Config.N

/-! ## TEMPER, the output transform (R62) -/

/-- `TEMPER(y)` (R62). -/
def temper (y : Word) : Word :=
  let y := y ^^^ (y >>> Config.temperU)
  let y := y ^^^ ((y <<< Config.temperS) &&& Config.temperB)
  let y := y ^^^ ((y <<< Config.temperT) &&& Config.temperC)
  y ^^^ (y >>> Config.temperL)

/-! ## NEXT, the extract pipeline (R63) -/

namespace Generator

/-- A generator freshly seeded with v: what SEED leaves, and what the instantiator makes for a candidate (R64, 10_state.md
R21). -/
def fresh (v : Word) : Generator := { mt := init v, idx := Fin.last Config.N, seeded := true }

/-- The first half of NEXT (R63): the vector and the index to read, after the lazy twist that the end-of-vector sentinel
asks for. -/
def ready (g : Generator) : MtVector × Fin Config.N :=
  if h : g.idx.val = Config.N then (twist g.mt, 0)
  else (g.mt, ⟨g.idx.val, Nat.lt_of_le_of_ne (Nat.le_of_lt_succ g.idx.isLt) h⟩)

/-- The word NEXT returns (R63). -/
def nextWord (g : Generator) : Word := temper (g.ready.1[g.ready.2.val])

/-- The generator after NEXT (R63): the vector that was read, and the cursor advanced. -/
def afterNext (g : Generator) : Generator :=
  { g with mt := g.ready.1, idx := g.ready.2.succ }

/-- `NEXT(G)` (R63): one extraction, the word and the generator after it. -/
def next (g : Generator) : Word × Generator := (g.nextWord, g.afterNext)

/-- The generator after k extractions. -/
def advance (g : Generator) : Nat → Generator
  | 0     => g
  | k + 1 => (g.advance k).next.2

end Generator

/-! ## SEED and EXTRACT -/

/-- SEED (R64): `G0.MT <- INIT(ARG0)`, `G0.IDX <- N`, `G0.SEEDED <- true`. It has no check. -/
def execSeed (s : State) : Host.Outcome State Fault Refusal :=
  runCommand s [] fun _ => s.setG0 (.fresh s.seedOperand)

/-- EXTRACT (R65): UNSEEDED unless G0 is seeded, else `RESULT <- NEXT(G0)`. -/
def execExtract (s : State) : Host.Outcome State Fault Refusal :=
  runCommand s [(!s.g0.seeded, .unseeded)] fun _ => (s.setG0 s.g0.next.2).setResult s.g0.next.1

end Sys2Proof.Machine
end

