-- ==== Sys2Proof/Machine/Cipher.lean ====
section
/-! DEFINITION. The stream cipher (41_stream_cipher.md): KBYTE, KSTREAM and the command CRYPT. -/

namespace Sys2Proof.Machine

/-- `KBYTE(G)` (R68): the low 8 bits of one extracted word, and the generator after that extraction. -/
def Generator.kbyte (g : Generator) : Byte × Generator := (g.next.1.extractLsb' 0 8, g.next.2)

/-- The next n keystream bytes of a generator. -/
def Generator.keystream (g : Generator) : Nat → List Byte
  | 0     => []
  | n + 1 => g.kbyte.1 :: g.kbyte.2.keystream n

/-- `KSTREAM(s, n)` (R69): the first n keystream bytes of a generator freshly seeded with s. -/
def kstream (s : Word) (n : Nat) : List Byte := (Generator.fresh s).keystream n

/-- CRYPT's loop (R70, 20_memory.md R42) after the iterations 0, …, n-1: the generator and buffer memory. Iteration i reads
input byte i, takes one keystream byte, and writes output byte i before byte i+1 is touched. -/
def cryptLoop (inBase outBase : Nat) (g : Generator) (m : Memory) : Nat → Generator × Memory
  | 0     => (g, m)
  | i + 1 =>
    let before := cryptLoop inBase outBase g m i
    let key := before.1.kbyte
    (key.2, before.2.write (outBase + i) (before.2.read (inBase + i) ^^^ key.1))

/-- CRYPT's checks, in the order of R70 and 60_exceptions.md R95. Lengths are compared as unsigned. -/
def cryptChecks (s : State) : List (Bool × FaultCode) :=
  [ (!s.g0.seeded, .unseeded),
    (decide (s.cryptOut.len < s.cryptIn.len), .outbufShort),
    (!s.cryptIn.valid || !s.cryptOut.valid, .range) ]

/-- CRYPT (R70): XOR the input buffer with G0's keystream into the output buffer. RESULT and FOUND are unchanged, and so are
output bytes at or after IN_LEN. -/
def execCrypt (s : State) : Host.Outcome State Fault Refusal :=
  runCommand s (cryptChecks s) fun _ =>
    let done := cryptLoop s.cryptIn.base s.cryptOut.base s.g0 s.bm s.cryptIn.len
    (s.setG0 done.1).setBm done.2

end Sys2Proof.Machine
end

