-- ==== Sys2Proof/Machine/Flags.lean ====
section
/-! DEFINITION. The status word (10_state.md R27) and how a search reports through STATUS.FOUND and RESULT (R22). -/

namespace Sys2Proof.Machine

/-- STATUS as the host reads it (R27): bits 31:12 zero, 11:8 FAULT, 7:2 zero, 1 SEEDED (a view of `G0.SEEDED`), 0 FOUND. -/
def State.statusWord (s : State) : Word :=
  (0#20 ++ s.fault ++ 0#6 ++ BitVec.ofBool s.g0.seeded ++ BitVec.ofBool s.found : BitVec 32)

/-- The comparator's result slot (R22): the first matching candidate, if any. `none` is the slot `(false, 0)`. -/
abbrev Slot := Option Word

/-- The end of a search command (R22): the slot is copied to STATUS.FOUND and RESULT; with no match RESULT is 0 (R26). -/
def State.reportSlot (s : State) (slot : Slot) : State :=
  (s.setFound slot.isSome).setResult (slot.getD 0)

end Sys2Proof.Machine
end

