-- ==== Sys2Proof/Machine/Search.lean ====
section
/-! DEFINITION. The seed search unit (42_seed_search.md): tokens, candidate feeders, comparators, and the commands GENTOKEN,
VALIDATE and BRUTE. None of them reads or writes G0 (R83): every generator they use is a scratch generator. -/

namespace Sys2Proof.Machine

/-! ## Tokens (R73, R74) -/

/-- `TOKEN(s)` (R73): the first 32 keystream bytes of a generator freshly seeded with s. -/
def token (s : Word) : List Byte := kstream s Config.tokenLen

/-- GENTOKEN (R74): write the token of ARG0 at ARG1, bytes in ascending order. -/
def execGentoken (s : State) : Host.Outcome State Fault Refusal :=
  runCommand s [(!s.tokenOut.valid, .range)] fun _ =>
    s.setBm (s.bm.writeBytes s.tokenOut.base (token s.seedOperand))

/-! ## The sequential search (R82) -/

/-- The first candidate `feeder k, feeder (k+1), …` (`count` of them) that matches: candidates are taken in feeder order and
the search ends at the first match (10_state.md R22, R82). -/
def searchFrom (feeder : Nat → Word) (isMatch : Word → Bool) (k : Nat) : Nat → Slot
  | 0         => none
  | count + 1 =>
    if isMatch (feeder k) then some (feeder k) else searchFrom feeder isMatch (k + 1) count

/-! ## Token validation (R75 to R77) -/

/-- VALIDATE's candidate feeder (R75): `c_k = (NOW - k) mod 2^32`. -/
def validateFeeder (now : Word) (k : Nat) : Word := now - BitVec.ofNat 32 k

/-- VALIDATE's comparator (R76): the observed token has length 32 and equals the candidate's token byte for byte. -/
def validateMatches (tok : List Byte) (c : Word) : Bool :=
  tok.length == Config.tokenLen && token c == tok

/-- VALIDATE's search (R77): the window of MAX_AGE candidates, backward from NOW. -/
def validateSearch (s : State) : Slot :=
  searchFrom (validateFeeder s.nowOperand) (validateMatches (s.bm.buffer s.tokenIn)) 0 s.maxAge.toNat

/-- VALIDATE's checks, in the order of R77 and 60_exceptions.md R95. -/
def validateChecks (s : State) : List (Bool × FaultCode) :=
  [ (decide (s.maxAge < 1), .maxageInvalid),
    (!s.tokenIn.valid, .range) ]

/-- VALIDATE (R77): search a window of timestamps for the seed of a token. -/
def execValidate (s : State) : Host.Outcome State Fault Refusal :=
  runCommand s (validateChecks s) fun _ => s.reportSlot (validateSearch s)

/-! ## Seed recovery (R79 to R81) -/

/-- BRUTE's candidate feeder (R79): the 16-bit seeds in ascending order, zero-extended. -/
def bruteFeeder (k : Nat) : Word := (BitVec.ofNat 16 k).zeroExtend 32

/-- BRUTE's comparator (R80): decrypt the whole ciphertext with the candidate's keystream, from position 0, and compare only
the trailing bytes with the known suffix. -/
def bruteMatches (ct suf : List Byte) (c : Word) : Bool :=
  (List.zipWith (· ^^^ ·) ct (kstream c ct.length)).drop (ct.length - suf.length) == suf

/-- BRUTE's search (R81): all 65536 seeds, the lowest match wins. -/
def bruteSearch (s : State) : Slot :=
  searchFrom bruteFeeder (bruteMatches (s.bm.buffer s.cipherIn) (s.bm.buffer s.suffixIn)) 0 Config.seedSpace

/-- BRUTE's checks, in the order of R81 and 60_exceptions.md R95. Lengths are compared as unsigned. -/
def bruteChecks (s : State) : List (Bool × FaultCode) :=
  [ (decide (s.cipherIn.len < s.suffixIn.len), .suffixLong),
    (!s.cipherIn.valid || !s.suffixIn.valid, .range) ]

/-- BRUTE (R81): recover a 16-bit seed from a ciphertext and a known plaintext suffix. -/
def execBrute (s : State) : Host.Outcome State Fault Refusal :=
  runCommand s (bruteChecks s) fun _ => s.reportSlot (bruteSearch s)

end Sys2Proof.Machine
end

