-- ==== Sys2Proof/Machine/Dispatch.lean ====
section
/-! DEFINITION. What each command does: one arm per command of the opcode table. -/

namespace Sys2Proof.Machine

/-- A command's meaning on a state whose ARG registers hold its operands. -/
def exec (i : Instr) (s : State) : Host.Outcome State Fault Refusal :=
  match i with
  | .seed => Sys2Proof.Machine.execSeed s
  | .extract => Sys2Proof.Machine.execExtract s
  | .crypt => Sys2Proof.Machine.execCrypt s
  | .gentoken => Sys2Proof.Machine.execGentoken s
  | .validate => Sys2Proof.Machine.execValidate s
  | .brute => Sys2Proof.Machine.execBrute s

end Sys2Proof.Machine
end

