-- ==== Sys2Proof/WellFormed.lean ====
section
/-! DEFINITION. What is well formed: every command (30_encoding.md R50, R51: a command has no field that could be out of
range), and the host operations of the interface (10_state.md R29, 20_memory.md R34). -/

namespace Sys2Proof

/-- Every command is well formed: none carries a field (R49, R51), and its operands, the ARG registers, may hold any value
(R50). One case per constructor, so that a new command must say what it needs. -/
def Instr.wellFormed : Instr → Bool
  | .seed => true
  | .extract => true
  | .crypt => true
  | .gentoken => true
  | .validate => true
  | .brute => true

namespace Machine

/-- A whole 32-bit access at a word-aligned offset in 0x00..0x1C (10_state.md R29). -/
def WindowAccess.wellFormed (a : WindowAccess) : Bool :=
  a.bytes == 4 && a.offset % 4 == 0 && decide (a.offset < Config.windowSize)

/-- The host's duties (70_reset_and_hazards.md R110): window accesses as R29 says, and memory accesses inside buffer memory
(20_memory.md R34). -/
def HostOp.wellFormed : HostOp → Bool
  | .write a _ => a.wellFormed
  | .read a => a.wellFormed
  | .memWrite addr bytes => decide (addr + bytes.length ≤ Config.bmSize)
  | .memRead addr len => decide (addr + len ≤ Config.bmSize)
  | .reset => true

end Machine

end Sys2Proof
end

