-- ==== Sys2Proof/Machine/HostPort.lean ====
section
/-! DEFINITION. The host's side of the interface: the register window (10_state.md R23 to R29), host accesses to buffer
memory (R15, 30_encoding.md R55), and the reset event (70_reset_and_hazards.md R106). -/

namespace Sys2Proof.Machine

/-! ## The register window -/

/-- The register at a byte offset of the window (R23); no other offset exists (R28). -/
def WindowReg.atOffset (offset : Nat) : Option WindowReg :=
  match offset with
  | 0x00 => some .cmd
  | 0x04 => some .arg0
  | 0x08 => some .arg1
  | 0x0C => some .arg2
  | 0x10 => some .arg3
  | 0x14 => some .result
  | 0x18 => some .status
  | 0x1C => some .reserved
  | _    => none

/-- The register an access reaches, or why the access is outside the interface (R29, U10). DESIGN CHOICE (log 7): the width
is looked at first, then the alignment, then the window's bounds. -/
def WindowAccess.resolve (a : WindowAccess) : Except Refusal WindowReg :=
  if a.bytes ≠ 4 then .error .notWholeWord
  else if a.offset % 4 ≠ 0 then .error .misaligned
  else match WindowReg.atOffset a.offset with
    | some r => .ok r
    | none   => .error .outOfWindow

/-- What a read of a register returns (R23 to R28): CMD and the reserved offset read 0. -/
def State.readReg (s : State) : WindowReg → Word
  | .cmd      => 0
  | .arg0     => s.arg0
  | .arg1     => s.arg1
  | .arg2     => s.arg2
  | .arg3     => s.arg3
  | .result   => s.result
  | .status   => s.statusWord
  | .reserved => 0

/-- A host write of CMD (R24, 30_encoding.md R52): the command the word encodes, or the fault ILLEGAL_CMD. On a faulted core
either one has no effect (R24, R54: `runCommand` makes that check). -/
def writeCmd (w : Word) (s : State) : Host.Outcome State Fault Refusal :=
  match decode w with
  | .command i => exec i s
  | .illegal _ => illegalCommand s

/-- A host write of a register (R23 to R28): CMD starts a command, the ARG registers take the value, and the others ignore
it. -/
def writeReg (r : WindowReg) (v : Word) (s : State) : Host.Outcome State Fault Refusal :=
  match r with
  | .cmd      => writeCmd v s
  | .arg0     => .next (s.setArg0 v)
  | .arg1     => .next (s.setArg1 v)
  | .arg2     => .next (s.setArg2 v)
  | .arg3     => .next (s.setArg3 v)
  | .result   => .next s
  | .status   => .next s
  | .reserved => .next s

/-! ## One host operation -/

/-- A host write of the window. -/
def hostWrite (a : WindowAccess) (v : Word) (s : State) : Host.Outcome State Fault Refusal :=
  match a.resolve with
  | .ok r      => writeReg r v s
  | .error why => .refused why

/-- A host read of the window: the value is recorded as what the host saw. -/
def hostRead (a : WindowAccess) (s : State) : Host.Outcome State Fault Refusal :=
  match a.resolve with
  | .ok r      => .next (s.logRead (.word (s.readReg r)))
  | .error why => .refused why

/-- A host write of bytes into buffer memory at ascending addresses (30_encoding.md R55). DEDUCED (log 8): one that runs past
the top of buffer memory faults and writes nothing. -/
def hostMemWrite (addr : Nat) (bytes : List Byte) (s : State) : Host.Outcome State Fault Refusal :=
  if addr + bytes.length ≤ Config.bmSize then .next (s.setBm (s.bm.writeBytes addr bytes))
  else .fault .noSuchAddress

/-- A host read of bytes of buffer memory (30_encoding.md R55). DEDUCED (log 8): one that runs past the top faults. -/
def hostMemRead (addr len : Nat) (s : State) : Host.Outcome State Fault Refusal :=
  if addr + len ≤ Config.bmSize then .next (s.logRead (.bytes (s.bm.readBytes addr len)))
  else .fault .noSuchAddress

/-- One host operation (10_state.md R15). -/
def hostOp (op : HostOp) (s : State) : Host.Outcome State Fault Refusal :=
  match op with
  | .write a v       => hostWrite a v s
  | .read a          => hostRead a s
  | .memWrite addr b => hostMemWrite addr b s
  | .memRead addr n  => hostMemRead addr n s
  | .reset           => .next s.coreReset

/-- Take the oldest pending host operation and carry it out. With none pending the core is idle and holds its state
(60_exceptions.md R105, 70_reset_and_hazards.md R106; DEDUCED, log 13). -/
def hostStep (s : State) : Host.Outcome State Fault Refusal :=
  match s.hostOps with
  | []          => .next s
  | op :: later => hostOp op (s.setHostOps later)

/-- The state in which `op` comes next, before every operation already pending. -/
def State.withNext (s : State) (op : HostOp) : State := s.setHostOps (op :: s.hostOps)

/-- The state in which the host's next operation is a write of `w` to CMD. -/
def State.withCmdWrite (s : State) (w : Word) : State := s.withNext (.write (.whole WindowReg.cmd.offset) w)

end Sys2Proof.Machine
end

