-- ==== Sys2Proof/Machine/Step.lean ====
section
/-! DEFINITION. One step of the machine: the host's next operation, with the whole of the command it may start (10_state.md
R14, R17). -/

namespace Sys2Proof.Machine

/-- One step (R14): the core is one agent that acts when the host does, so a step is the host's oldest pending operation;
with none pending the core is idle. -/
def step (s : State) : Host.Outcome State Fault Refusal := hostStep s

/-- The state whose very next step runs the command word `w` (numbered as spec/opcode_table.json numbers it): the host's next
operation is the CMD write of that word. The core fetches nothing (20_memory.md R48); commands arrive from the host (R17), so
this is the only way one runs (log 3). -/
def State.withFetchWord (s : State) (nbits w : Nat) : State := s.withCmdWrite (tableWord nbits w)

end Sys2Proof.Machine
end

