-- ==== Sys2Proof/Machine/Assembler.lean ====
section
/-! DEFINITION. The assembler of 30_encoding.md R55 to R58: a program is a sequence of host operations, one line each; a
mnemonic or pseudo-instruction stands for several. -/

namespace Sys2Proof.Machine

/-- One line of a program (R55 to R57). Numbers that R55 calls `imm32` are words; addresses and lengths of host memory
operations are unbounded, as in R58. -/
inductive AsmLine where
  /-- `WR <reg>, <imm32>`. DESIGN CHOICE (log 11): any named register, as the vectors of 95_test_vectors.md use it. -/
  | wr (reg : WindowReg) (value : Word)
  /-- `RD <reg>` (log 11). -/
  | rd (reg : WindowReg)
  /-- `MEMW <addr>, <hex bytes>`. -/
  | memw (addr : Nat) (bytes : List Byte)
  /-- `MEMR <addr>, <len>`. -/
  | memr (addr len : Nat)
  /-- `RESET`, the reset event (95_test_vectors.md P5). -/
  | reset
  /-- `SEED v`. -/
  | seed (v : Word)
  /-- `EXTRACT`. -/
  | extract
  /-- `CRYPT in, out, inlen, outlen`. -/
  | crypt (input output inlen outlen : Word)
  /-- `GENTOKEN s, out`. -/
  | gentoken (s out : Word)
  /-- `VALIDATE tok, toklen, maxage, now`; maxage may be negative. -/
  | validate (tok toklen : Word) (maxage : Int) (now : Word)
  /-- `BRUTE ct, ctlen, suf, suflen`. -/
  | brute (ct ctlen suf suflen : Word)
  /-- `ENCRYPT s, in, out, len` (R57). -/
  | encrypt (s input output len : Word)
  /-- `DECRYPT s, in, out, len` (R57). -/
  | decrypt (s input output len : Word)
  /-- `GETWORD` (R57). -/
  | getword
  /-- `ILLEGAL w` (R57): a word that decodes to ILLEGAL. -/
  | illegal (w : Word)
  deriving DecidableEq, Repr

/-- `WR <reg>, <imm32>` as the tuple `(W, offset, value)` (R58). -/
def wrOp (r : WindowReg) (v : Word) : HostOp := .write (.whole r.offset) v

/-- `RD <reg>` as the tuple `(R, offset)` (R58). -/
def rdOp (r : WindowReg) : HostOp := .read (.whole r.offset)

/-- The ARG writes of a mnemonic in ascending ARG order, then the CMD write (R56). An unused ARG is not written: `args` holds
the used ones, which are always the first. -/
def commandOps (args : List Word) (i : Instr) : List HostOp :=
  List.zipWith wrOp [.arg0, .arg1, .arg2, .arg3] args ++ [wrOp .cmd (encode i)]

/-- A line's primitive host operations (R56, R57). -/
def AsmLine.expand : AsmLine → List HostOp
  | .wr r v => [wrOp r v]
  | .rd r => [rdOp r]
  | .memw a bs => [.memWrite a bs]
  | .memr a n => [.memRead a n]
  | .reset => [.reset]
  | .seed v => commandOps [v] .seed
  | .extract => commandOps [] .extract
  | .crypt i o n m => commandOps [i, o, n, m] .crypt
  | .gentoken s o => commandOps [s, o] .gentoken
  | .validate t n m now => commandOps [t, n, BitVec.ofInt 32 m, now] .validate
  | .brute c n f m => commandOps [c, n, f, m] .brute
  | .encrypt s i o n => commandOps [s] .seed ++ commandOps [i, o, n, n] .crypt
  | .decrypt s i o n => commandOps [s] .seed ++ commandOps [i, o, n, n] .crypt
  | .getword => commandOps [] .extract ++ [rdOp .result]
  | .illegal w => [wrOp .cmd w]

/-- The encoding of a program: its primitive host operations after expansion, in order (R58). -/
def assemble (program : List AsmLine) : List HostOp := program.flatMap AsmLine.expand

/-- The state with a program as the host's pending operations (log 3). -/
def State.withProgram (s : State) (program : List AsmLine) : State := s.setHostOps (assemble program)

/-- What the assembler accepts: a named register (0x1C has no name, R55), a max age with a 32-bit pattern (R56), a word that
is illegal (R57), memory operations inside buffer memory. -/
def AsmLine.wellFormed : AsmLine → Bool
  | .wr r _ => r != .reserved
  | .rd r => r != .reserved
  | .memw a bs => (HostOp.memWrite a bs).wellFormed
  | .memr a n => (HostOp.memRead a n).wellFormed
  | .validate _ _ m _ => decide (-(2 ^ 31) ≤ m ∧ m < 2 ^ 32)
  | .illegal w => match decode w with
    | .command _ => false
    | .illegal _ => true
  | .reset | .seed _ | .extract | .crypt .. | .gentoken .. | .brute .. => true
  | .encrypt .. | .decrypt .. | .getword => true

end Sys2Proof.Machine
end

