-- ==== Sys2Proof/Machine/Work.lean ====
section
/-! DEFINITION. The operation counts of 70_reset_and_hazards.md R111. They are not state and not timing: no other rule and no
meaning depends on them. -/

namespace Sys2Proof.Machine

/-- The columns of R111's table: how often INIT, TWIST and TEMPER run, and the bytes of buffer memory read and written. -/
structure Work where
  inits     : Nat
  twists    : Nat
  tempers   : Nat
  bmRead    : Nat
  bmWritten : Nat
  deriving DecidableEq, Repr

/-- How many of the next k extractions of a generator twist: those that find the cursor at N (40_generator.md R63). -/
def Generator.twistsIn (g : Generator) (k : Nat) : Nat :=
  ((List.range k).filter fun j => (g.advance j).idx.val == Config.N).length

/-- The work of one scratch generator that is seeded and extracted from k times. -/
def scratchWork (seed : Word) (k : Nat) : Work :=
  { inits := 1, twists := (Generator.fresh seed).twistsIn k, tempers := k, bmRead := 0, bmWritten := 0 }

/-- Two pieces of work together. -/
def Work.add (a b : Work) : Work :=
  ⟨a.inits + b.inits, a.twists + b.twists, a.tempers + b.tempers, a.bmRead + b.bmRead, a.bmWritten + b.bmWritten⟩

/-- The work of a search: the scratch work of every candidate it examines, the matching one included (42_seed_search.md R77,
R81). -/
def searchWork (feeder : Nat → Word) (isMatch : Word → Bool) (cost : Word → Work) (k : Nat) : Nat → Work
  | 0         => ⟨0, 0, 0, 0, 0⟩
  | count + 1 =>
    if isMatch (feeder k) then cost (feeder k)
    else (cost (feeder k)).add (searchWork feeder isMatch cost (k + 1) count)

/-- How many candidates a search examines: up to and including the first match. -/
def examined (feeder : Nat → Word) (isMatch : Word → Bool) (k : Nat) : Nat → Nat
  | 0         => 0
  | count + 1 => if isMatch (feeder k) then 1 else examined feeder isMatch (k + 1) count + 1

/-- The work of one candidate of VALIDATE: none when the token's length is not 32, because no token is then generated. -/
def validateCost (s : State) (c : Word) : Work :=
  if s.tokenIn.len = Config.tokenLen then scratchWork c Config.tokenLen else ⟨0, 0, 0, 0, 0⟩

/-- The candidates VALIDATE examines (R111's m). -/
def validateExamined (s : State) : Nat :=
  examined (validateFeeder s.nowOperand) (validateMatches (s.bm.buffer s.tokenIn)) 0 s.maxAge.toNat

/-- The candidates BRUTE examines (R111's c). -/
def bruteExamined (s : State) : Nat :=
  examined bruteFeeder (bruteMatches (s.bm.buffer s.cipherIn) (s.bm.buffer s.suffixIn)) 0 Config.seedSpace

/-- The work of a command that completes without a fault (R111). -/
def work (i : Instr) (s : State) : Work :=
  match i with
  | .seed     => ⟨1, 0, 0, 0, 0⟩
  | .extract  => ⟨0, s.g0.twistsIn 1, 1, 0, 0⟩
  | .crypt    => ⟨0, s.g0.twistsIn s.cryptIn.len, s.cryptIn.len, s.cryptIn.len, s.cryptIn.len⟩
  | .gentoken => (scratchWork s.seedOperand Config.tokenLen).add ⟨0, 0, 0, 0, Config.tokenLen⟩
  | .validate =>
    (searchWork (validateFeeder s.nowOperand) (validateMatches (s.bm.buffer s.tokenIn)) (validateCost s) 0
      s.maxAge.toNat).add ⟨0, 0, 0, s.tokenIn.len, 0⟩
  | .brute    =>
    (searchWork bruteFeeder (bruteMatches (s.bm.buffer s.cipherIn) (s.bm.buffer s.suffixIn))
      (fun c => scratchWork c s.cipherIn.len) 0 Config.seedSpace).add ⟨0, 0, 0, s.cipherIn.len + s.suffixIn.len, 0⟩

end Sys2Proof.Machine
end

