-- ==== Sys2Proof/Safety.lean ====
section
/-! DEFINITION. What counts as a good state and a well-behaved host, and the terms the statements use. -/

namespace Sys2Proof.Machine

/-! ## Good states -/

/-- A generator that some seeding made and only extractions changed: "no external mutation except through `Seed` and
`Extract`" (10_state.md R20, R31). -/
def Generator.Descends (g : Generator) : Prop := ∃ (v : Word) (k : Nat), g = (Generator.fresh v).advance k

/-- The invariant of the machine: buffer memory is in canonical form; the recorded fault code is one that 60_exceptions.md R86
defines (7..15 are never produced, U8); G0 descends from a seeding once it is seeded (R20), and before that its cursor is the
reset value N (R33). -/
structure State.Inv (s : State) : Prop where
  memory   : s.bm.wf
  code     : s.fault.toNat ≤ 6
  lineage  : s.g0.seeded = true → s.g0.Descends
  unseeded : s.g0.seeded = false → s.g0.idx.val = 624

/-- The values of 10_state.md R33 that a reset gives (of `G0.MT` the spec says nothing, and buffer memory is not the core's). -/
structure State.AtReset (s : State) : Prop where
  idx    : s.g0.idx.val = 624
  seeded : s.g0.seeded = false
  arg0   : s.arg0 = 0
  arg1   : s.arg1 = 0
  arg2   : s.arg2 = 0
  arg3   : s.arg3 = 0
  result : s.result = 0
  found  : s.found = false
  fault  : s.fault = 0

/-- Two states that differ at most in the state vector of an unseeded G0 (10_state.md R31, R33, U6). -/
structure State.SameButUnseededMt (s t : State) : Prop where
  rest   : t = { s with g0 := ⟨t.g0.mt, s.g0.idx, s.g0.seeded⟩ }
  vector : s.g0.seeded = true → t.g0.mt = s.g0.mt

/-- A host that keeps its duties (70_reset_and_hazards.md R110): every pending operation is one of the interface's. -/
def State.HostWellBehaved (s : State) : Prop := ∀ op ∈ s.hostOps, op.wellFormed = true

/-! ## Commands on a running core -/

/-- Keystream byte j of a generator: the low 8 bits of the word that extraction j returns (41_stream_cipher.md R68). -/
def Generator.keyByte (g : Generator) (j : Nat) : Byte := (g.advance j).nextWord.extractLsb' 0 8

/-- CRYPT completes (41_stream_cipher.md R70): the core is not faulted, G0 is seeded, the output buffer is long enough, and
both buffers lie inside buffer memory. -/
structure State.CryptReady (s : State) : Prop where
  running : s.fault = 0
  seeded  : s.g0.seeded = true
  enough  : s.arg2 ≤ s.arg3
  input   : s.arg0.toNat + s.arg2.toNat ≤ 2 ^ 32
  output  : s.arg1.toNat + s.arg3.toNat ≤ 2 ^ 32

/-- CRYPT reads every input byte before it overwrites it (20_memory.md R44): the output does not start inside the input
after its first byte. In place (ARG0 = ARG1) and disjoint buffers are cases of this. -/
def State.CryptReadsAhead (s : State) : Prop :=
  s.arg1.toNat ≤ s.arg0.toNat ∨ s.arg0.toNat + s.arg2.toNat ≤ s.arg1.toNat

/-- BRUTE completes (42_seed_search.md R81). -/
structure State.BruteReady (s : State) : Prop where
  running : s.fault = 0
  short   : s.arg3 ≤ s.arg1
  cipher  : s.arg0.toNat + s.arg1.toNat ≤ 2 ^ 32
  suffix  : s.arg2.toNat + s.arg3.toNat ≤ 2 ^ 32

/-- VALIDATE completes (42_seed_search.md R77). -/
structure State.ValidateReady (s : State) : Prop where
  running : s.fault = 0
  age     : 1 ≤ s.arg2.toInt
  token   : s.arg0.toNat + s.arg1.toNat ≤ 2 ^ 32

/-- Candidate c matches the token that VALIDATE observes (42_seed_search.md R76). -/
def State.TokenMatch (s : State) (c : Word) : Prop :=
  s.arg1 = 32 ∧ ∀ j < 32, (Generator.fresh c).keyByte j = s.bm.read (s.arg0.toNat + j)

/-- VALIDATE's candidate k (42_seed_search.md R75). -/
def State.timestamp (s : State) (k : Nat) : Word := s.arg3 - BitVec.ofNat 32 k

/-- Candidate c matches the suffix that BRUTE observes (42_seed_search.md R80). -/
def State.SuffixMatch (s : State) (c : Word) : Prop :=
  ∀ j < s.arg3.toNat,
    s.bm.read (s.arg0.toNat + (s.arg1.toNat - s.arg3.toNat + j)) ^^^
        (Generator.fresh c).keyByte (s.arg1.toNat - s.arg3.toNat + j) =
      s.bm.read (s.arg2.toNat + j)

/-- The addresses a command reads (20_memory.md R36). -/
def State.Reads (i : Instr) (s : State) (a : Nat) : Prop :=
  match i with
  | .seed => False
  | .extract => False
  | .crypt => s.arg0.toNat ≤ a ∧ a < s.arg0.toNat + s.arg2.toNat
  | .gentoken => False
  | .validate => s.arg0.toNat ≤ a ∧ a < s.arg0.toNat + s.arg1.toNat
  | .brute =>
    (s.arg0.toNat ≤ a ∧ a < s.arg0.toNat + s.arg1.toNat) ∨ (s.arg2.toNat ≤ a ∧ a < s.arg2.toNat + s.arg3.toNat)

/-- The addresses a command writes (20_memory.md R36). -/
def State.Writes (i : Instr) (s : State) (a : Nat) : Prop :=
  match i with
  | .seed => False
  | .extract => False
  | .crypt => s.arg1.toNat ≤ a ∧ a < s.arg1.toNat + s.arg2.toNat
  | .gentoken => s.arg1.toNat ≤ a ∧ a < s.arg1.toNat + 32
  | .validate => False
  | .brute => False

end Sys2Proof.Machine
end

