-- ==== Sys2Proof/Certificates/Slice0/Obligations.lean ====
section
/-! DEFINITION. The statements for the provers. Each docstring names the rule of spec/ it formalises. -/

open Sys2Proof Sys2Proof.Machine

/-! ## Reset and the step -/

/-- 10_state.md R33: the values after reset, of the state the machine starts in and of every state the reset event leaves;
reset does not touch buffer memory. That what the host still has to do and has read is untouched too is the model's choice,
for fields of its own (logs 3 and 4). -/
def Obligations.ResetGivesTheSpecValues : Prop :=
  State.reset.AtReset ∧
  ∀ s : State, ∃ t, step (s.withNext .reset) = .next t ∧ t.AtReset ∧ t.bm = s.bm ∧
    t.hostOps = s.hostOps ∧ t.hostReads = s.hostReads

/-- 60_exceptions.md R105: with nothing asked of it the core is idle and holds its state. That such a step exists at all is
the model's choice (log 13). -/
def Obligations.IdleCoreHoldsItsState : Prop :=
  ∀ s : State, s.hostOps = [] → step s = .next s

/-- 10_state.md R14, R24: a CMD write of a word that decodes to a command is a step that runs that command, and around it
only takes the write from the host's pending operations. So does the state that `withFetchWord` makes. -/
def Obligations.StepRunsTheDecodedCommand : Prop :=
  (∀ (s : State) (w : Word) (i : Instr), decode w = .command i → step (s.withCmdWrite w) = exec i s) ∧
  (∀ (s : State) (nbits w : Nat) (i : Instr), decodeTableWord nbits w = some i →
    step (s.withFetchWord nbits w) = exec i s)

/-- 70_reset_and_hazards.md R112: every command terminates, and the searches examine boundedly many candidates. -/
def Obligations.EveryCommandTerminates : Prop :=
  (∀ (i : Instr) (s : State), ∃ t, exec i s = .next t) ∧
  (∀ s : State, s.cryptIn.len ≤ 2 ^ 32 - 1 ∧ validateExamined s ≤ s.maxAge.toNat ∧
    s.maxAge.toNat ≤ 2 ^ 31 - 1 ∧ bruteExamined s ≤ 65536)

/-- 70_reset_and_hazards.md R110 and 10_state.md R29: a host that keeps its duties is never stopped, and what it still has to
do keeps them. -/
def Obligations.WellBehavedHostIsNeverStopped : Prop :=
  ∀ s : State, s.HostWellBehaved → ∃ t, step s = .next t ∧ t.HostWellBehaved

/-! ## Encoding -/

/-- 30_encoding.md R52, R53 and 60_exceptions.md R87: the decode table on every 32-bit word, and what an illegal word does to
a core that is not faulted: the fault ILLEGAL_CMD and nothing else. -/
def Obligations.DecodeIsTheOpcodeMap : Prop :=
  ∀ w : Word,
    (w.extractLsb' 8 24 ≠ 0 → ∃ why, decode w = .illegal why) ∧
    (w.extractLsb' 8 24 = 0 →
      (w.extractLsb' 0 8 = 0x01 → decode w = .command .seed) ∧
      (w.extractLsb' 0 8 = 0x02 → decode w = .command .extract) ∧
      (w.extractLsb' 0 8 = 0x03 → decode w = .command .crypt) ∧
      (w.extractLsb' 0 8 = 0x04 → decode w = .command .gentoken) ∧
      (w.extractLsb' 0 8 = 0x05 → decode w = .command .validate) ∧
      (w.extractLsb' 0 8 = 0x06 → decode w = .command .brute) ∧
      (w.extractLsb' 0 8 = 0x00 ∨ 0x07 ≤ w.extractLsb' 0 8 → ∃ why, decode w = .illegal why)) ∧
    (∀ (why : IllegalWord) (s : State), decode w = .illegal why → s.fault = 0 →
      step (s.withCmdWrite w) = .next { s with fault := 1 })

/-- 30_encoding.md R59: a command word is its opcode zero-extended; decoding and encoding are inverse, both ways; the legal
words are 1 to 6. -/
def Obligations.DecodeAndEncodeAgree : Prop :=
  (∀ (w : Word) (i : Instr), decode w = .command i ↔ w = encode i) ∧
  (∀ i : Instr, i.wellFormed = true ∧ encode i = (opcode i).zeroExtend 32) ∧
  (∀ w : Word, (∃ i, decode w = .command i) ↔ 1 ≤ w.toNat ∧ w.toNat ≤ 6)

/-- 30_encoding.md R49: the six words written out, and four illegal ones (95_test_vectors.md L2-DE-1 to L2-DE-4). -/
def Obligations.WrittenOutWordsDecode : Prop :=
  decode 0x00000001 = .command .seed ∧ decode 0x00000002 = .command .extract ∧
  decode 0x00000003 = .command .crypt ∧ decode 0x00000004 = .command .gentoken ∧
  decode 0x00000005 = .command .validate ∧ decode 0x00000006 = .command .brute ∧
  decode 0x00000000 = .illegal .noSuchOpcode ∧ decode 0x00000007 = .illegal .noSuchOpcode ∧
  decode 0x00000101 = .illegal .reservedBitSet ∧ decode 0xFFFFFFFF = .illegal .reservedBitSet

/-- 30_encoding.md R56: each mnemonic form's expansion, as the tuples of R58. -/
def Obligations.MnemonicFormsExpand : Prop :=
  ∀ (a b c d : Word) (m : Int),
    (AsmLine.seed a).expand = [.write ⟨0x04, 4⟩ a, .write ⟨0x00, 4⟩ 0x00000001] ∧
    AsmLine.extract.expand = [.write ⟨0x00, 4⟩ 0x00000002] ∧
    (AsmLine.crypt a b c d).expand = [.write ⟨0x04, 4⟩ a, .write ⟨0x08, 4⟩ b, .write ⟨0x0C, 4⟩ c, .write ⟨0x10, 4⟩ d,
      .write ⟨0x00, 4⟩ 0x00000003] ∧
    (AsmLine.gentoken a b).expand = [.write ⟨0x04, 4⟩ a, .write ⟨0x08, 4⟩ b, .write ⟨0x00, 4⟩ 0x00000004] ∧
    (AsmLine.validate a b m d).expand = [.write ⟨0x04, 4⟩ a, .write ⟨0x08, 4⟩ b, .write ⟨0x0C, 4⟩ (BitVec.ofInt 32 m),
      .write ⟨0x10, 4⟩ d, .write ⟨0x00, 4⟩ 0x00000005] ∧
    (AsmLine.brute a b c d).expand = [.write ⟨0x04, 4⟩ a, .write ⟨0x08, 4⟩ b, .write ⟨0x0C, 4⟩ c, .write ⟨0x10, 4⟩ d,
      .write ⟨0x00, 4⟩ 0x00000006]

/-- 30_encoding.md R57: the pseudo-instructions' expansions. -/
def Obligations.PseudoInstructionsExpand : Prop :=
  ∀ a b c d : Word,
    (AsmLine.encrypt a b c d).expand = (AsmLine.seed a).expand ++ (AsmLine.crypt b c d d).expand ∧
    (AsmLine.decrypt a b c d).expand = (AsmLine.seed a).expand ++ (AsmLine.crypt b c d d).expand ∧
    AsmLine.getword.expand = AsmLine.extract.expand ++ [.read ⟨0x14, 4⟩] ∧
    (AsmLine.illegal a).expand = [.write ⟨0x00, 4⟩ a] ∧
    ((AsmLine.illegal a).wellFormed = true ↔ ∃ why, decode a = .illegal why)

/-! ## The register window -/

/-- 10_state.md R29: a whole, word-aligned access at an offset in 0x00..0x1C is never refused, and every other access is. -/
def Obligations.OnlyInterfaceAccessesAreCarriedOut : Prop :=
  ∀ (s : State) (a : WindowAccess) (v : Word),
    (a.bytes = 4 ∧ a.offset % 4 = 0 ∧ a.offset ≤ 0x1C →
      (∃ t, step (s.withNext (.write a v)) = .next t) ∧ ∃ t, step (s.withNext (.read a)) = .next t) ∧
    (¬(a.bytes = 4 ∧ a.offset % 4 = 0 ∧ a.offset ≤ 0x1C) →
      (∃ why, step (s.withNext (.write a v)) = .refused why) ∧ ∃ why, step (s.withNext (.read a)) = .refused why)

/-- 10_state.md R28: the reserved offset reads 0 and ignores writes, and the window has no offset beyond the eight. -/
def Obligations.ReservedOffsetReadsZeroAndIgnoresWrites : Prop :=
  ∀ (s : State) (v : Word),
    step (s.withNext (.read ⟨0x1C, 4⟩)) = .next { s with hostReads := s.hostReads ++ [.word 0] } ∧
    step (s.withNext (.write ⟨0x1C, 4⟩ v)) = .next s ∧
    ∀ off : Nat, off ∉ [0x00, 0x04, 0x08, 0x0C, 0x10, 0x14, 0x18, 0x1C] →
      (∃ why, step (s.withNext (.read ⟨off, 4⟩)) = .refused why) ∧
      ∃ why, step (s.withNext (.write ⟨off, 4⟩ v)) = .refused why

/-- 10_state.md R25: in every state, faulted or not, an ARG register takes the value the host writes, changes nothing else,
and reads back whole; no command writes one. -/
def Obligations.ArgRegistersAreTheHosts : Prop :=
  (∀ (s : State) (v : Word),
    step (s.withNext (.write ⟨0x04, 4⟩ v)) = .next { s with arg0 := v } ∧
    step (s.withNext (.write ⟨0x08, 4⟩ v)) = .next { s with arg1 := v } ∧
    step (s.withNext (.write ⟨0x0C, 4⟩ v)) = .next { s with arg2 := v } ∧
    step (s.withNext (.write ⟨0x10, 4⟩ v)) = .next { s with arg3 := v } ∧
    step (s.withNext (.read ⟨0x04, 4⟩)) = .next { s with hostReads := s.hostReads ++ [.word s.arg0] } ∧
    step (s.withNext (.read ⟨0x08, 4⟩)) = .next { s with hostReads := s.hostReads ++ [.word s.arg1] } ∧
    step (s.withNext (.read ⟨0x0C, 4⟩)) = .next { s with hostReads := s.hostReads ++ [.word s.arg2] } ∧
    step (s.withNext (.read ⟨0x10, 4⟩)) = .next { s with hostReads := s.hostReads ++ [.word s.arg3] }) ∧
  (∀ (s t : State) (w : Word), step (s.withCmdWrite w) = .next t →
    t.arg0 = s.arg0 ∧ t.arg1 = s.arg1 ∧ t.arg2 = s.arg2 ∧ t.arg3 = s.arg3)

/-- 10_state.md R24, R26, R27: CMD reads 0, RESULT and STATUS read what they hold, in STATUS the fields of R27's table, and
host writes of RESULT and STATUS are ignored. -/
def Obligations.ResultAndStatusAreReadOnly : Prop :=
  ∀ (s : State) (v : Word),
    step (s.withNext (.read ⟨0x00, 4⟩)) = .next { s with hostReads := s.hostReads ++ [.word 0] } ∧
    step (s.withNext (.read ⟨0x14, 4⟩)) = .next { s with hostReads := s.hostReads ++ [.word s.result] } ∧
    (∃ w : Word, step (s.withNext (.read ⟨0x18, 4⟩)) = .next { s with hostReads := s.hostReads ++ [.word w] } ∧
      w.getLsbD 0 = s.found ∧ w.getLsbD 1 = s.g0.seeded ∧ w.extractLsb' 2 6 = 0 ∧ w.extractLsb' 8 4 = s.fault ∧
      w.extractLsb' 12 20 = 0) ∧
    step (s.withNext (.write ⟨0x14, 4⟩ v)) = .next s ∧
    step (s.withNext (.write ⟨0x18, 4⟩ v)) = .next s

/-! ## Faults -/

/-- 60_exceptions.md R87 to R92 and R95: which single code a core that is not faulted records, by priority, for every command
and every operand; nothing else changes. -/
def Obligations.FaultsByPriority : Prop :=
  ∀ s : State, s.fault = 0 →
    (∀ w : Word, (∀ i, decode w ≠ .command i) → step (s.withCmdWrite w) = .next { s with fault := 1 }) ∧
    (s.g0.seeded = false →
      exec .extract s = .next { s with fault := 2 } ∧ exec .crypt s = .next { s with fault := 2 }) ∧
    (s.g0.seeded = true → s.arg3 < s.arg2 → exec .crypt s = .next { s with fault := 3 }) ∧
    (s.g0.seeded = true → s.arg2 ≤ s.arg3 →
      2 ^ 32 < s.arg0.toNat + s.arg2.toNat ∨ 2 ^ 32 < s.arg1.toNat + s.arg3.toNat →
      exec .crypt s = .next { s with fault := 6 }) ∧
    (2 ^ 32 < s.arg1.toNat + 32 → exec .gentoken s = .next { s with fault := 6 }) ∧
    (s.arg2.toInt < 1 → exec .validate s = .next { s with fault := 4 }) ∧
    (1 ≤ s.arg2.toInt → 2 ^ 32 < s.arg0.toNat + s.arg1.toNat → exec .validate s = .next { s with fault := 6 }) ∧
    (s.arg1 < s.arg3 → exec .brute s = .next { s with fault := 5 }) ∧
    (s.arg3 ≤ s.arg1 → 2 ^ 32 < s.arg0.toNat + s.arg1.toNat ∨ 2 ^ 32 < s.arg2.toNat + s.arg3.toNat →
      exec .brute s = .next { s with fault := 6 }) ∧
    (∀ (i : Instr) (t : State), exec i s = .next t → t.fault = 2 → i = .extract ∨ i = .crypt)

/-- 60_exceptions.md R93, R94: a CMD write that raises a fault changes STATUS.FAULT and nothing else, on a core that was not
faulted, and records one of the codes 1 to 6. -/
def Obligations.FaultChangesOnlyTheCode : Prop :=
  ∀ (s t : State) (w : Word), step (s.withCmdWrite w) = .next t → t.fault ≠ s.fault →
    s.fault = 0 ∧ 1 ≤ t.fault.toNat ∧ t.fault.toNat ≤ 6 ∧ t = { s with fault := t.fault }

/-- 30_encoding.md R54: a write to CMD of a faulted core, of any word, has no effect. -/
def Obligations.FaultedCoreIgnoresCmdWrites : Prop :=
  ∀ (s : State) (w : Word), s.fault ≠ 0 → step (s.withCmdWrite w) = .next s

/-- 10_state.md R30: a faulted core executes no command; until reset, whatever the host does, the code and the rest of the
core's own state stay as they stood; reset ends it. -/
def Obligations.FaultLastsUntilReset : Prop :=
  (∀ (i : Instr) (s : State), s.fault ≠ 0 → exec i s = .next s) ∧
  (∀ s t : State, s.fault ≠ 0 → s.hostOps.head? ≠ some .reset → step s = .next t →
    t.fault = s.fault ∧ t.g0 = s.g0 ∧ t.result = s.result ∧ t.found = s.found) ∧
  (∀ s t : State, s.hostOps.head? = some .reset → step s = .next t → t.fault = 0)

/-! ## The generator -/

/-- 40_generator.md R60, R64: SEED on a core that is not faulted completes, with any value of ARG0; it replaces G0 by the
state vector of the recurrence, the cursor at 624 and the seeded mark, and changes nothing else. -/
def Obligations.SeedInstallsTheRecurrence : Prop :=
  ∀ s : State, s.fault = 0 → ∃ g : Generator,
    exec .seed s = .next { s with g0 := g } ∧ g = Generator.fresh s.arg0 ∧
    wordAt g.mt 0 = s.arg0 ∧
    (∀ i : Nat, 1 ≤ i → i < 624 →
      wordAt g.mt i =
        1812433253 * (wordAt g.mt (i - 1) ^^^ (wordAt g.mt (i - 1) >>> 30)) + BitVec.ofNat 32 i) ∧
    g.idx.val = 624 ∧ g.seeded = true

/-- 40_generator.md R63, R65: EXTRACT on a seeded core that is not faulted completes; RESULT takes the tempered word under the
cursor, after the lazy twist if the cursor is 624, and the cursor advances; nothing else changes. Unseeded, it faults. -/
def Obligations.ExtractReturnsTheNextWord : Prop :=
  ∀ s : State, s.fault = 0 →
    (s.g0.seeded = true → ∃ (g : Generator) (r : Word),
      exec .extract s = .next { s with g0 := g, result := r } ∧ g.seeded = true ∧ g = s.g0.advance 1 ∧
      (s.g0.idx.val = 624 → g.mt = twist s.g0.mt ∧ g.idx.val = 1 ∧ r = temper (wordAt g.mt 0)) ∧
      (s.g0.idx.val < 624 →
        g.mt = s.g0.mt ∧ g.idx.val = s.g0.idx.val + 1 ∧ r = temper (wordAt s.g0.mt s.g0.idx.val))) ∧
    (s.g0.seeded = false → exec .extract s = .next { s with fault := 2 })

/-- 40_generator.md R61: every word of the twisted vector. Up to index 226 all three inputs are old words; from 227 on the
word M ahead is new; the last word also reads the new word 0. -/
def Obligations.TwistIsSequentialInPlace : Prop :=
  ∀ mt : MtVector,
    let mix := fun this next : Word =>
      let y := (this &&& 0x80000000) ||| (next &&& 0x7FFFFFFF)
      if y.getLsbD 0 = true then (y >>> 1) ^^^ 0x9908B0DF else y >>> 1
    (∀ i < 227, wordAt (twist mt) i = wordAt mt (i + 397) ^^^ mix (wordAt mt i) (wordAt mt (i + 1))) ∧
    (∀ i : Nat, 227 ≤ i → i < 623 →
      wordAt (twist mt) i = wordAt (twist mt) (i - 227) ^^^ mix (wordAt mt i) (wordAt mt (i + 1))) ∧
    wordAt (twist mt) 623 = wordAt (twist mt) 396 ^^^ mix (wordAt mt 623) (wordAt (twist mt) 0)

/-- 40_generator.md R62: the output transform, with its four shifts and two masks; it is a bijection on 32-bit words (the
spec marks that sentence as general knowledge); its corner cases and its worked example. -/
def Obligations.TemperIsTheOutputBijection : Prop :=
  (∀ y : Word,
    let y1 := y ^^^ (y >>> 11)
    let y2 := y1 ^^^ ((y1 <<< 7) &&& 0x9D2C5680)
    let y3 := y2 ^^^ ((y2 <<< 15) &&& 0xEFC60000)
    temper y = y3 ^^^ (y3 >>> 18)) ∧
  Function.Bijective temper ∧
  temper 0 = 0 ∧ temper 0xFFFFFFFF = 0x6FE01BF8 ∧ temper 0x00000001 = 0x00400091 ∧ temper 0x80000000 = 0x88102204 ∧
  temper 0x91A10D12 = 0x8C7F0AAC

/-- 40_generator.md R67: after a seeding and k extractions, where the cursor is, how many twists have been performed, and
which extractions twist. -/
def Obligations.TwistCadence : Prop :=
  ∀ (v : Word) (k : Nat), 1 ≤ k →
    ((Generator.fresh v).advance k).idx.val = (k - 1) % 624 + 1 ∧
    ((Generator.fresh v).advance k).mt = twist^[(k + 623) / 624] (init v) ∧
    (((Generator.fresh v).advance (k - 1)).idx.val = 624 ↔ (k - 1) % 624 = 0)

/-- 40_generator.md R66: seeding with the same value gives the same generator whatever went before, and equal generators give
equal words and stay equal. -/
def Obligations.SameSeedSameWords : Prop :=
  ∀ s s' t t' : State, s.fault = 0 → s'.fault = 0 →
    (s.arg0 = s'.arg0 → exec .seed s = .next t → exec .seed s' = .next t' → t.g0 = t'.g0) ∧
    (s.g0 = s'.g0 → s.g0.seeded = true → exec .extract s = .next t → exec .extract s' = .next t' →
      t.result = t'.result ∧ t.g0 = t'.g0)

/-! ## The stream cipher -/

/-- 41_stream_cipher.md R68, R70 and 20_memory.md R44: CRYPT's three faults, and CRYPT completes when its checks pass. Output
byte j is input byte j, as it is when iteration j reads it, XORed with keystream byte j: an input byte at an address that an
earlier iteration wrote is read as that iteration left it. G0 advances by one extraction a byte; every byte outside the IN_LEN
output bytes, RESULT, FOUND, the ARG registers and the fault code are unchanged. -/
def Obligations.CryptTransformsTheBuffer : Prop :=
  ∀ s : State, s.fault = 0 →
    (s.g0.seeded = false → exec .crypt s = .next { s with fault := 2 }) ∧
    (s.g0.seeded = true → s.arg3 < s.arg2 → exec .crypt s = .next { s with fault := 3 }) ∧
    (s.g0.seeded = true → s.arg2 ≤ s.arg3 →
      2 ^ 32 < s.arg0.toNat + s.arg2.toNat ∨ 2 ^ 32 < s.arg1.toNat + s.arg3.toNat →
      exec .crypt s = .next { s with fault := 6 }) ∧
    (s.CryptReady → ∃ m : Memory,
      exec .crypt s = .next { s with g0 := s.g0.advance s.arg2.toNat, bm := m } ∧
      (∀ j < s.arg2.toNat,
        m.read (s.arg1.toNat + j) =
          (if s.arg1.toNat ≤ s.arg0.toNat + j ∧ s.arg0.toNat + j < s.arg1.toNat + j then m.read (s.arg0.toNat + j)
            else s.bm.read (s.arg0.toNat + j)) ^^^ s.g0.keyByte j) ∧
      (∀ a : Nat, a < s.arg1.toNat ∨ s.arg1.toNat + s.arg2.toNat ≤ a → m.read a = s.bm.read a))

/-- 41_stream_cipher.md R71: applied to its own output under a generator freshly seeded with the same value, CRYPT gives the
input back. `u` is any state that finds the first pass's output as its input. -/
def Obligations.CryptIsAnInvolution : Prop :=
  ∀ (v : Word) (s u : State), s.CryptReady → u.CryptReady → s.CryptReadsAhead → u.CryptReadsAhead →
    s.g0 = Generator.fresh v → u.g0 = Generator.fresh v → u.arg2 = s.arg2 →
    ∀ t : State, exec .crypt s = .next t →
      (∀ j < s.arg2.toNat, u.bm.read (u.arg0.toNat + j) = t.bm.read (s.arg1.toNat + j)) →
      ∃ w : State, exec .crypt u = .next w ∧
        ∀ j < s.arg2.toNat, w.bm.read (u.arg1.toNat + j) = s.bm.read (s.arg0.toNat + j)

/-- 41_stream_cipher.md R72: G0 is not reseeded between commands. After `SEED v`, a CRYPT of n1 bytes and then a CRYPT of n2
bytes use keystream bytes 0..n1-1 and n1..n1+n2-1, and an EXTRACT between them returns the whole word at position n1. -/
def Obligations.CryptContinuesTheKeystream : Prop :=
  ∀ (v : Word) (s t u : State), s.CryptReady → s.CryptReadsAhead → s.g0 = Generator.fresh v →
    exec .crypt s = .next t → u.g0 = t.g0 →
    (∀ j < s.arg2.toNat,
      t.bm.read (s.arg1.toNat + j) = s.bm.read (s.arg0.toNat + j) ^^^ (Generator.fresh v).keyByte j) ∧
    (u.CryptReady → u.CryptReadsAhead → ∃ w : State, exec .crypt u = .next w ∧
      w.g0 = (Generator.fresh v).advance (s.arg2.toNat + u.arg2.toNat) ∧
      ∀ j < u.arg2.toNat, w.bm.read (u.arg1.toNat + j) =
        u.bm.read (u.arg0.toNat + j) ^^^ (Generator.fresh v).keyByte (s.arg2.toNat + j)) ∧
    (u.fault = 0 → ∃ w : State, exec .extract u = .next w ∧
      w.result = ((Generator.fresh v).advance s.arg2.toNat).nextWord ∧
      w.g0 = (Generator.fresh v).advance (s.arg2.toNat + 1))

/-! ## The seed search unit -/

/-- 42_seed_search.md R73, R74: GENTOKEN completes when its output buffer is valid, seeded or not; it writes the 32 bytes of
the token of ARG0 at ARG1 and changes nothing else. Otherwise it faults RANGE. -/
def Obligations.GentokenWritesTheToken : Prop :=
  ∀ s : State, s.fault = 0 →
    (s.arg1.toNat + 32 ≤ 2 ^ 32 → ∃ m : Memory,
      exec .gentoken s = .next { s with bm := m } ∧
      (∀ j < 32, m.read (s.arg1.toNat + j) = (Generator.fresh s.arg0).keyByte j) ∧
      (∀ a : Nat, a < s.arg1.toNat ∨ s.arg1.toNat + 32 ≤ a → m.read a = s.bm.read a)) ∧
    (2 ^ 32 < s.arg1.toNat + 32 → exec .gentoken s = .next { s with fault := 6 })

/-- 42_seed_search.md R76, R77: VALIDATE reports the first candidate of the window that matches, or none, and changes only
FOUND and RESULT; its two faults. -/
def Obligations.ValidateReportsTheFirstMatch : Prop :=
  ∀ s : State, s.fault = 0 →
    (s.arg2.toInt < 1 → exec .validate s = .next { s with fault := 4 }) ∧
    (1 ≤ s.arg2.toInt → 2 ^ 32 < s.arg0.toNat + s.arg1.toNat → exec .validate s = .next { s with fault := 6 }) ∧
    (s.ValidateReady →
      (∃ (f : Bool) (r : Word), exec .validate s = .next { s with found := f, result := r }) ∧
      (∀ k : Nat, (k : Int) < s.arg2.toInt → s.TokenMatch (s.timestamp k) →
        (∀ i < k, ¬s.TokenMatch (s.timestamp i)) →
        exec .validate s = .next { s with found := true, result := s.timestamp k }) ∧
      ((∀ k : Nat, (k : Int) < s.arg2.toInt → ¬s.TokenMatch (s.timestamp k)) →
        exec .validate s = .next { s with found := false, result := 0 }))

/-- 42_seed_search.md R78: a token made d seconds before NOW validates with every window longer than d, at a timestamp no
further back than d. -/
def Obligations.ValidateFindsATokenInTheWindow : Prop :=
  ∀ (s : State) (d : Nat), s.ValidateReady → (d : Int) < s.arg2.toInt → s.arg1 = 32 →
    (∀ j < 32, s.bm.read (s.arg0.toNat + j) = (Generator.fresh (s.timestamp d)).keyByte j) →
    ∃ k ≤ d, exec .validate s = .next { s with found := true, result := s.timestamp k }

/-- 42_seed_search.md R79 to R81: BRUTE reports the lowest 16-bit seed that matches, or none, and changes only FOUND and
RESULT; its two faults. -/
def Obligations.BruteReportsTheLowestSeed : Prop :=
  ∀ s : State, s.fault = 0 →
    (s.arg1 < s.arg3 → exec .brute s = .next { s with fault := 5 }) ∧
    (s.arg3 ≤ s.arg1 → 2 ^ 32 < s.arg0.toNat + s.arg1.toNat ∨ 2 ^ 32 < s.arg2.toNat + s.arg3.toNat →
      exec .brute s = .next { s with fault := 6 }) ∧
    (s.BruteReady →
      (∃ (f : Bool) (r : Word), exec .brute s = .next { s with found := f, result := r }) ∧
      (∀ k < 65536, s.SuffixMatch (BitVec.ofNat 32 k) → (∀ i < k, ¬s.SuffixMatch (BitVec.ofNat 32 i)) →
        exec .brute s = .next { s with found := true, result := BitVec.ofNat 32 k }) ∧
      ((∀ k < 65536, ¬s.SuffixMatch (BitVec.ofNat 32 k)) →
        exec .brute s = .next { s with found := false, result := 0 }))

/-- 42_seed_search.md R80 (D19): with an empty suffix every candidate matches, so BRUTE reports seed 0 as found. -/
def Obligations.EmptySuffixFindsSeedZero : Prop :=
  ∀ s : State, s.BruteReady → s.arg3 = 0 → exec .brute s = .next { s with found := true, result := 0 }

/-- 42_seed_search.md R84: let a ciphertext be the CRYPT of a plaintext under a fresh 16-bit seed, no input byte overwritten
before it is read, and let the known suffix be the plaintext's last bytes. BRUTE finds a seed not above it, and finds exactly
it when no lower seed matches too. -/
def Obligations.BruteRecoversTheSeed : Prop :=
  ∀ (seed : BitVec 16) (s t u : State),
    s.CryptReady → s.CryptReadsAhead → s.g0 = Generator.fresh (seed.zeroExtend 32) → exec .crypt s = .next t →
    u.BruteReady → u.arg1 = s.arg2 →
    (∀ j < s.arg2.toNat, u.bm.read (u.arg0.toNat + j) = t.bm.read (s.arg1.toNat + j)) →
    (∀ j < u.arg3.toNat, u.bm.read (u.arg2.toNat + j) =
      s.bm.read (s.arg0.toNat + (s.arg2.toNat - u.arg3.toNat + j))) →
    ∃ w : State, exec .brute u = .next w ∧ w.found = true ∧ w.result ≤ seed.zeroExtend 32 ∧
      (w.result = seed.zeroExtend 32 ↔ ∀ k < seed.toNat, ¬u.SuffixMatch (BitVec.ofNat 32 k))

/-- 42_seed_search.md R83: GENTOKEN, VALIDATE and BRUTE neither write G0 nor read it: with any other generator in its place
they do the same and leave that one as it was. -/
def Obligations.SearchCommandsAreIsolatedFromG0 : Prop :=
  ∀ (i : Instr) (s t : State), i = .gentoken ∨ i = .validate ∨ i = .brute → exec i s = .next t →
    t.g0 = s.g0 ∧ ∀ g : Generator, exec i { s with g0 := g } = .next { t with g0 := g }

/-! ## Who changes what -/

/-- 10_state.md R20: only SEED sets `G0.SEEDED`, nothing but reset clears it, and it is false after reset. -/
def Obligations.OnlySeedSetsSeededAndOnlyResetClearsIt : Prop :=
  (∀ s t : State, step s = .next t → s.g0.seeded = false → t.g0.seeded = true →
    s.fault = 0 ∧ s.hostOps.head? = some (.write ⟨0x00, 4⟩ 0x00000001)) ∧
  (∀ s t : State, step s = .next t → s.g0.seeded = true → t.g0.seeded = false → s.hostOps.head? = some .reset) ∧
  (∀ s t : State, s.hostOps.head? = some .reset → step s = .next t → t.g0.seeded = false)

/-- 10_state.md R26, R27: besides reset, RESULT changes only by EXTRACT, VALIDATE or BRUTE, and FOUND only by VALIDATE or
BRUTE, each on a core that is not faulted and stays so. -/
def Obligations.WhoWritesResultAndFound : Prop :=
  ∀ s t : State, step s = .next t → s.hostOps.head? ≠ some .reset →
    (t.result ≠ s.result →
      s.fault = 0 ∧ t.fault = 0 ∧ ∃ w : Word, s.hostOps.head? = some (.write ⟨0x00, 4⟩ w) ∧ (w = 2 ∨ w = 5 ∨ w = 6)) ∧
    (t.found ≠ s.found →
      s.fault = 0 ∧ t.fault = 0 ∧ ∃ w : Word, s.hostOps.head? = some (.write ⟨0x00, 4⟩ w) ∧ (w = 5 ∨ w = 6))

/-- 20_memory.md R36, the column "writes": a command changes no byte of buffer memory outside the bytes R36 lists. -/
def Obligations.CommandsWriteOnlyTheirBuffers : Prop :=
  ∀ (i : Instr) (s t : State), exec i s = .next t → ∀ a : Nat, ¬State.Writes i s a → t.bm.read a = s.bm.read a

/-- 20_memory.md R36, the column "reads": what a command does depends on no byte of buffer memory outside the buffers R36
lists: on a memory that agrees there it leaves the same core state, and the same bytes wherever it writes. -/
def Obligations.CommandsReadOnlyTheirBuffers : Prop :=
  ∀ (i : Instr) (s t : State) (m : Memory), exec i s = .next t →
    (∀ a : Nat, State.Reads i s a → m.read a = s.bm.read a) →
    ∃ m' : Memory, exec i { s with bm := m } = .next { t with bm := m' } ∧
      (t.fault = 0 → ∀ a : Nat, State.Writes i s a → m'.read a = t.bm.read a)

/-- 30_encoding.md R50: an unused ARG register is ignored, whatever it holds. -/
def Obligations.UnusedArgsAreIgnored : Prop :=
  ∀ (s t : State) (v : Word),
    (exec .seed s = .next t →
      exec .seed { s with arg1 := v } = .next { t with arg1 := v } ∧
      exec .seed { s with arg2 := v } = .next { t with arg2 := v } ∧
      exec .seed { s with arg3 := v } = .next { t with arg3 := v }) ∧
    (exec .extract s = .next t →
      exec .extract { s with arg0 := v } = .next { t with arg0 := v } ∧
      exec .extract { s with arg1 := v } = .next { t with arg1 := v } ∧
      exec .extract { s with arg2 := v } = .next { t with arg2 := v } ∧
      exec .extract { s with arg3 := v } = .next { t with arg3 := v }) ∧
    (exec .gentoken s = .next t →
      exec .gentoken { s with arg2 := v } = .next { t with arg2 := v } ∧
      exec .gentoken { s with arg3 := v } = .next { t with arg3 := v })

/-- 10_state.md R25, and the model's own fields (logs 1, 3 and 4): a command leaves the ARG registers, the host's pending operations, what the host has read and
the reset draws as they were. -/
def Obligations.CommandsLeaveTheHostsSide : Prop :=
  ∀ (i : Instr) (s t : State), exec i s = .next t →
    t.arg0 = s.arg0 ∧ t.arg1 = s.arg1 ∧ t.arg2 = s.arg2 ∧ t.arg3 = s.arg3 ∧
    t.hostOps = s.hostOps ∧ t.hostReads = s.hostReads ∧ t.resetDraws = s.resetDraws

/-- 30_encoding.md R55, 20_memory.md R34, R43: a host memory write leaves the bytes it writes and no other, a host memory read
returns the bytes that stand there and changes nothing; both take effect on a faulted core too (60_exceptions.md R96). That a
run past the top stops with a fault is the model's choice (log 8). -/
def Obligations.HostMemoryAccesses : Prop :=
  ∀ (s : State) (addr len : Nat) (bytes : List Byte),
    (addr + bytes.length ≤ 2 ^ 32 → ∃ m : Memory,
      step (s.withNext (.memWrite addr bytes)) = .next { s with bm := m } ∧
      (∀ (j : Nat) (h : j < bytes.length), m.read (addr + j) = bytes[j]) ∧
      (∀ a : Nat, a < addr ∨ addr + bytes.length ≤ a → m.read a = s.bm.read a)) ∧
    (2 ^ 32 < addr + bytes.length → step (s.withNext (.memWrite addr bytes)) = .fault .noSuchAddress) ∧
    (addr + len ≤ 2 ^ 32 → ∃ bs : List Byte,
      step (s.withNext (.memRead addr len)) = .next { s with hostReads := s.hostReads ++ [.bytes bs] } ∧
      bs.length = len ∧ ∀ (j : Nat) (h : j < bs.length), bs[j] = s.bm.read (addr + j)) ∧
    (2 ^ 32 < addr + len → step (s.withNext (.memRead addr len)) = .fault .noSuchAddress)

/-! ## Invariants and what cannot be observed -/

/-- The invariant holds after reset. That buffer memory is then empty is the model's choice (log 2). -/
def Obligations.ResetMeetsTheInvariant : Prop := State.reset.Inv

/-- Every step keeps the invariant: buffer memory stays in canonical form, no reserved fault code is produced (60_exceptions.md
R86, U8), a seeded G0 descends from a seeding by extractions alone (10_state.md R20, R31), an unseeded G0 has its cursor at
the sentinel. -/
def Obligations.StepKeepsTheInvariant : Prop :=
  ∀ s t : State, s.Inv → step s = .next t → t.Inv

/-- 10_state.md R31, R33, U6: no step tells apart two states that differ only in the state vector of an unseeded G0: they
stop alike or go on to two such states, with the same reads returned to the host. -/
def Obligations.UnseededVectorIsUnobservable : Prop :=
  ∀ s s' : State, s.SameButUnseededMt s' →
    (∀ t, step s = .next t → ∃ t', step s' = .next t' ∧ t.SameButUnseededMt t' ∧ t'.hostReads = t.hostReads) ∧
    (∀ r, step s = .fault r → step s' = .fault r) ∧
    (∀ r, step s = .refused r → step s' = .refused r)

/-! ## Work -/

/-- 70_reset_and_hazards.md R111: the table of operation counts. -/
def Obligations.OperationCounts : Prop :=
  ∀ s : State,
    work .seed s = ⟨1, 0, 0, 0, 0⟩ ∧
    work .extract s = ⟨0, if s.g0.idx.val = 624 then 1 else 0, 1, 0, 0⟩ ∧
    work .crypt s = ⟨0, ((List.range s.arg2.toNat).filter fun j => (s.g0.advance j).idx.val == 624).length,
      s.arg2.toNat, s.arg2.toNat, s.arg2.toNat⟩ ∧
    work .gentoken s = ⟨1, 1, 32, 0, 32⟩ ∧
    (s.arg1 = 32 → work .validate s = ⟨validateExamined s, validateExamined s, 32 * validateExamined s, 32, 0⟩) ∧
    (s.arg1 ≠ 32 → work .validate s = ⟨0, 0, 0, s.arg1.toNat, 0⟩) ∧
    work .brute s = ⟨bruteExamined s, bruteExamined s * ((s.arg1.toNat + 623) / 624), bruteExamined s * s.arg1.toNat,
      s.arg1.toNat + s.arg3.toNat, 0⟩ ∧
    validateExamined s ≤ 2 ^ 31 - 1 ∧ bruteExamined s ≤ 65536
end

