-- ==== Sys2Proof/Laws/State.lean ====
section
/-! SUPPORT. What each operation on the state leaves in each field, so that no proof unfolds a record update. -/

namespace Sys2Proof.Machine.State

variable (s : State)

/-! `setG0` -/

@[simp] theorem setG0_g0 (v : Generator) : (s.setG0 v).g0 = v := rfl
@[simp] theorem setG0_arg0 (v : Generator) : (s.setG0 v).arg0 = s.arg0 := rfl
@[simp] theorem setG0_arg1 (v : Generator) : (s.setG0 v).arg1 = s.arg1 := rfl
@[simp] theorem setG0_arg2 (v : Generator) : (s.setG0 v).arg2 = s.arg2 := rfl
@[simp] theorem setG0_arg3 (v : Generator) : (s.setG0 v).arg3 = s.arg3 := rfl
@[simp] theorem setG0_result (v : Generator) : (s.setG0 v).result = s.result := rfl
@[simp] theorem setG0_found (v : Generator) : (s.setG0 v).found = s.found := rfl
@[simp] theorem setG0_fault (v : Generator) : (s.setG0 v).fault = s.fault := rfl
@[simp] theorem setG0_bm (v : Generator) : (s.setG0 v).bm = s.bm := rfl
@[simp] theorem setG0_hostOps (v : Generator) : (s.setG0 v).hostOps = s.hostOps := rfl
@[simp] theorem setG0_hostReads (v : Generator) : (s.setG0 v).hostReads = s.hostReads := rfl
@[simp] theorem setG0_resetDraws (v : Generator) : (s.setG0 v).resetDraws = s.resetDraws := rfl

/-! `setArg0` -/

@[simp] theorem setArg0_g0 (v : Word) : (s.setArg0 v).g0 = s.g0 := rfl
@[simp] theorem setArg0_arg0 (v : Word) : (s.setArg0 v).arg0 = v := rfl
@[simp] theorem setArg0_arg1 (v : Word) : (s.setArg0 v).arg1 = s.arg1 := rfl
@[simp] theorem setArg0_arg2 (v : Word) : (s.setArg0 v).arg2 = s.arg2 := rfl
@[simp] theorem setArg0_arg3 (v : Word) : (s.setArg0 v).arg3 = s.arg3 := rfl
@[simp] theorem setArg0_result (v : Word) : (s.setArg0 v).result = s.result := rfl
@[simp] theorem setArg0_found (v : Word) : (s.setArg0 v).found = s.found := rfl
@[simp] theorem setArg0_fault (v : Word) : (s.setArg0 v).fault = s.fault := rfl
@[simp] theorem setArg0_bm (v : Word) : (s.setArg0 v).bm = s.bm := rfl
@[simp] theorem setArg0_hostOps (v : Word) : (s.setArg0 v).hostOps = s.hostOps := rfl
@[simp] theorem setArg0_hostReads (v : Word) : (s.setArg0 v).hostReads = s.hostReads := rfl
@[simp] theorem setArg0_resetDraws (v : Word) : (s.setArg0 v).resetDraws = s.resetDraws := rfl

/-! `setArg1` -/

@[simp] theorem setArg1_g0 (v : Word) : (s.setArg1 v).g0 = s.g0 := rfl
@[simp] theorem setArg1_arg0 (v : Word) : (s.setArg1 v).arg0 = s.arg0 := rfl
@[simp] theorem setArg1_arg1 (v : Word) : (s.setArg1 v).arg1 = v := rfl
@[simp] theorem setArg1_arg2 (v : Word) : (s.setArg1 v).arg2 = s.arg2 := rfl
@[simp] theorem setArg1_arg3 (v : Word) : (s.setArg1 v).arg3 = s.arg3 := rfl
@[simp] theorem setArg1_result (v : Word) : (s.setArg1 v).result = s.result := rfl
@[simp] theorem setArg1_found (v : Word) : (s.setArg1 v).found = s.found := rfl
@[simp] theorem setArg1_fault (v : Word) : (s.setArg1 v).fault = s.fault := rfl
@[simp] theorem setArg1_bm (v : Word) : (s.setArg1 v).bm = s.bm := rfl
@[simp] theorem setArg1_hostOps (v : Word) : (s.setArg1 v).hostOps = s.hostOps := rfl
@[simp] theorem setArg1_hostReads (v : Word) : (s.setArg1 v).hostReads = s.hostReads := rfl
@[simp] theorem setArg1_resetDraws (v : Word) : (s.setArg1 v).resetDraws = s.resetDraws := rfl

/-! `setArg2` -/

@[simp] theorem setArg2_g0 (v : Word) : (s.setArg2 v).g0 = s.g0 := rfl
@[simp] theorem setArg2_arg0 (v : Word) : (s.setArg2 v).arg0 = s.arg0 := rfl
@[simp] theorem setArg2_arg1 (v : Word) : (s.setArg2 v).arg1 = s.arg1 := rfl
@[simp] theorem setArg2_arg2 (v : Word) : (s.setArg2 v).arg2 = v := rfl
@[simp] theorem setArg2_arg3 (v : Word) : (s.setArg2 v).arg3 = s.arg3 := rfl
@[simp] theorem setArg2_result (v : Word) : (s.setArg2 v).result = s.result := rfl
@[simp] theorem setArg2_found (v : Word) : (s.setArg2 v).found = s.found := rfl
@[simp] theorem setArg2_fault (v : Word) : (s.setArg2 v).fault = s.fault := rfl
@[simp] theorem setArg2_bm (v : Word) : (s.setArg2 v).bm = s.bm := rfl
@[simp] theorem setArg2_hostOps (v : Word) : (s.setArg2 v).hostOps = s.hostOps := rfl
@[simp] theorem setArg2_hostReads (v : Word) : (s.setArg2 v).hostReads = s.hostReads := rfl
@[simp] theorem setArg2_resetDraws (v : Word) : (s.setArg2 v).resetDraws = s.resetDraws := rfl

/-! `setArg3` -/

@[simp] theorem setArg3_g0 (v : Word) : (s.setArg3 v).g0 = s.g0 := rfl
@[simp] theorem setArg3_arg0 (v : Word) : (s.setArg3 v).arg0 = s.arg0 := rfl
@[simp] theorem setArg3_arg1 (v : Word) : (s.setArg3 v).arg1 = s.arg1 := rfl
@[simp] theorem setArg3_arg2 (v : Word) : (s.setArg3 v).arg2 = s.arg2 := rfl
@[simp] theorem setArg3_arg3 (v : Word) : (s.setArg3 v).arg3 = v := rfl
@[simp] theorem setArg3_result (v : Word) : (s.setArg3 v).result = s.result := rfl
@[simp] theorem setArg3_found (v : Word) : (s.setArg3 v).found = s.found := rfl
@[simp] theorem setArg3_fault (v : Word) : (s.setArg3 v).fault = s.fault := rfl
@[simp] theorem setArg3_bm (v : Word) : (s.setArg3 v).bm = s.bm := rfl
@[simp] theorem setArg3_hostOps (v : Word) : (s.setArg3 v).hostOps = s.hostOps := rfl
@[simp] theorem setArg3_hostReads (v : Word) : (s.setArg3 v).hostReads = s.hostReads := rfl
@[simp] theorem setArg3_resetDraws (v : Word) : (s.setArg3 v).resetDraws = s.resetDraws := rfl

/-! `setResult` -/

@[simp] theorem setResult_g0 (v : Word) : (s.setResult v).g0 = s.g0 := rfl
@[simp] theorem setResult_arg0 (v : Word) : (s.setResult v).arg0 = s.arg0 := rfl
@[simp] theorem setResult_arg1 (v : Word) : (s.setResult v).arg1 = s.arg1 := rfl
@[simp] theorem setResult_arg2 (v : Word) : (s.setResult v).arg2 = s.arg2 := rfl
@[simp] theorem setResult_arg3 (v : Word) : (s.setResult v).arg3 = s.arg3 := rfl
@[simp] theorem setResult_result (v : Word) : (s.setResult v).result = v := rfl
@[simp] theorem setResult_found (v : Word) : (s.setResult v).found = s.found := rfl
@[simp] theorem setResult_fault (v : Word) : (s.setResult v).fault = s.fault := rfl
@[simp] theorem setResult_bm (v : Word) : (s.setResult v).bm = s.bm := rfl
@[simp] theorem setResult_hostOps (v : Word) : (s.setResult v).hostOps = s.hostOps := rfl
@[simp] theorem setResult_hostReads (v : Word) : (s.setResult v).hostReads = s.hostReads := rfl
@[simp] theorem setResult_resetDraws (v : Word) : (s.setResult v).resetDraws = s.resetDraws := rfl

/-! `setFound` -/

@[simp] theorem setFound_g0 (v : Bool) : (s.setFound v).g0 = s.g0 := rfl
@[simp] theorem setFound_arg0 (v : Bool) : (s.setFound v).arg0 = s.arg0 := rfl
@[simp] theorem setFound_arg1 (v : Bool) : (s.setFound v).arg1 = s.arg1 := rfl
@[simp] theorem setFound_arg2 (v : Bool) : (s.setFound v).arg2 = s.arg2 := rfl
@[simp] theorem setFound_arg3 (v : Bool) : (s.setFound v).arg3 = s.arg3 := rfl
@[simp] theorem setFound_result (v : Bool) : (s.setFound v).result = s.result := rfl
@[simp] theorem setFound_found (v : Bool) : (s.setFound v).found = v := rfl
@[simp] theorem setFound_fault (v : Bool) : (s.setFound v).fault = s.fault := rfl
@[simp] theorem setFound_bm (v : Bool) : (s.setFound v).bm = s.bm := rfl
@[simp] theorem setFound_hostOps (v : Bool) : (s.setFound v).hostOps = s.hostOps := rfl
@[simp] theorem setFound_hostReads (v : Bool) : (s.setFound v).hostReads = s.hostReads := rfl
@[simp] theorem setFound_resetDraws (v : Bool) : (s.setFound v).resetDraws = s.resetDraws := rfl

/-! `setFault` -/

@[simp] theorem setFault_g0 (v : BitVec 4) : (s.setFault v).g0 = s.g0 := rfl
@[simp] theorem setFault_arg0 (v : BitVec 4) : (s.setFault v).arg0 = s.arg0 := rfl
@[simp] theorem setFault_arg1 (v : BitVec 4) : (s.setFault v).arg1 = s.arg1 := rfl
@[simp] theorem setFault_arg2 (v : BitVec 4) : (s.setFault v).arg2 = s.arg2 := rfl
@[simp] theorem setFault_arg3 (v : BitVec 4) : (s.setFault v).arg3 = s.arg3 := rfl
@[simp] theorem setFault_result (v : BitVec 4) : (s.setFault v).result = s.result := rfl
@[simp] theorem setFault_found (v : BitVec 4) : (s.setFault v).found = s.found := rfl
@[simp] theorem setFault_fault (v : BitVec 4) : (s.setFault v).fault = v := rfl
@[simp] theorem setFault_bm (v : BitVec 4) : (s.setFault v).bm = s.bm := rfl
@[simp] theorem setFault_hostOps (v : BitVec 4) : (s.setFault v).hostOps = s.hostOps := rfl
@[simp] theorem setFault_hostReads (v : BitVec 4) : (s.setFault v).hostReads = s.hostReads := rfl
@[simp] theorem setFault_resetDraws (v : BitVec 4) : (s.setFault v).resetDraws = s.resetDraws := rfl

/-! `setBm` -/

@[simp] theorem setBm_g0 (v : Memory) : (s.setBm v).g0 = s.g0 := rfl
@[simp] theorem setBm_arg0 (v : Memory) : (s.setBm v).arg0 = s.arg0 := rfl
@[simp] theorem setBm_arg1 (v : Memory) : (s.setBm v).arg1 = s.arg1 := rfl
@[simp] theorem setBm_arg2 (v : Memory) : (s.setBm v).arg2 = s.arg2 := rfl
@[simp] theorem setBm_arg3 (v : Memory) : (s.setBm v).arg3 = s.arg3 := rfl
@[simp] theorem setBm_result (v : Memory) : (s.setBm v).result = s.result := rfl
@[simp] theorem setBm_found (v : Memory) : (s.setBm v).found = s.found := rfl
@[simp] theorem setBm_fault (v : Memory) : (s.setBm v).fault = s.fault := rfl
@[simp] theorem setBm_bm (v : Memory) : (s.setBm v).bm = v := rfl
@[simp] theorem setBm_hostOps (v : Memory) : (s.setBm v).hostOps = s.hostOps := rfl
@[simp] theorem setBm_hostReads (v : Memory) : (s.setBm v).hostReads = s.hostReads := rfl
@[simp] theorem setBm_resetDraws (v : Memory) : (s.setBm v).resetDraws = s.resetDraws := rfl

/-! `setHostOps` -/

@[simp] theorem setHostOps_g0 (v : List HostOp) : (s.setHostOps v).g0 = s.g0 := rfl
@[simp] theorem setHostOps_arg0 (v : List HostOp) : (s.setHostOps v).arg0 = s.arg0 := rfl
@[simp] theorem setHostOps_arg1 (v : List HostOp) : (s.setHostOps v).arg1 = s.arg1 := rfl
@[simp] theorem setHostOps_arg2 (v : List HostOp) : (s.setHostOps v).arg2 = s.arg2 := rfl
@[simp] theorem setHostOps_arg3 (v : List HostOp) : (s.setHostOps v).arg3 = s.arg3 := rfl
@[simp] theorem setHostOps_result (v : List HostOp) : (s.setHostOps v).result = s.result := rfl
@[simp] theorem setHostOps_found (v : List HostOp) : (s.setHostOps v).found = s.found := rfl
@[simp] theorem setHostOps_fault (v : List HostOp) : (s.setHostOps v).fault = s.fault := rfl
@[simp] theorem setHostOps_bm (v : List HostOp) : (s.setHostOps v).bm = s.bm := rfl
@[simp] theorem setHostOps_hostOps (v : List HostOp) : (s.setHostOps v).hostOps = v := rfl
@[simp] theorem setHostOps_hostReads (v : List HostOp) : (s.setHostOps v).hostReads = s.hostReads := rfl
@[simp] theorem setHostOps_resetDraws (v : List HostOp) : (s.setHostOps v).resetDraws = s.resetDraws := rfl

/-! `logRead` -/

@[simp] theorem logRead_g0 (r : HostRead) : (s.logRead r).g0 = s.g0 := rfl
@[simp] theorem logRead_arg0 (r : HostRead) : (s.logRead r).arg0 = s.arg0 := rfl
@[simp] theorem logRead_arg1 (r : HostRead) : (s.logRead r).arg1 = s.arg1 := rfl
@[simp] theorem logRead_arg2 (r : HostRead) : (s.logRead r).arg2 = s.arg2 := rfl
@[simp] theorem logRead_arg3 (r : HostRead) : (s.logRead r).arg3 = s.arg3 := rfl
@[simp] theorem logRead_result (r : HostRead) : (s.logRead r).result = s.result := rfl
@[simp] theorem logRead_found (r : HostRead) : (s.logRead r).found = s.found := rfl
@[simp] theorem logRead_fault (r : HostRead) : (s.logRead r).fault = s.fault := rfl
@[simp] theorem logRead_bm (r : HostRead) : (s.logRead r).bm = s.bm := rfl
@[simp] theorem logRead_hostOps (r : HostRead) : (s.logRead r).hostOps = s.hostOps := rfl
@[simp] theorem logRead_hostReads (r : HostRead) : (s.logRead r).hostReads = s.hostReads ++ [r] := rfl
@[simp] theorem logRead_resetDraws (r : HostRead) : (s.logRead r).resetDraws = s.resetDraws := rfl

/-! `raiseFault` -/

@[simp] theorem raiseFault_g0 (c : FaultCode) : (s.raiseFault c).g0 = s.g0 := rfl
@[simp] theorem raiseFault_arg0 (c : FaultCode) : (s.raiseFault c).arg0 = s.arg0 := rfl
@[simp] theorem raiseFault_arg1 (c : FaultCode) : (s.raiseFault c).arg1 = s.arg1 := rfl
@[simp] theorem raiseFault_arg2 (c : FaultCode) : (s.raiseFault c).arg2 = s.arg2 := rfl
@[simp] theorem raiseFault_arg3 (c : FaultCode) : (s.raiseFault c).arg3 = s.arg3 := rfl
@[simp] theorem raiseFault_result (c : FaultCode) : (s.raiseFault c).result = s.result := rfl
@[simp] theorem raiseFault_found (c : FaultCode) : (s.raiseFault c).found = s.found := rfl
@[simp] theorem raiseFault_fault (c : FaultCode) : (s.raiseFault c).fault = c.code := rfl
@[simp] theorem raiseFault_bm (c : FaultCode) : (s.raiseFault c).bm = s.bm := rfl
@[simp] theorem raiseFault_hostOps (c : FaultCode) : (s.raiseFault c).hostOps = s.hostOps := rfl
@[simp] theorem raiseFault_hostReads (c : FaultCode) : (s.raiseFault c).hostReads = s.hostReads := rfl
@[simp] theorem raiseFault_resetDraws (c : FaultCode) : (s.raiseFault c).resetDraws = s.resetDraws := rfl

/-! `reportSlot` -/

@[simp] theorem reportSlot_g0 (slot : Slot) : (s.reportSlot slot).g0 = s.g0 := rfl
@[simp] theorem reportSlot_arg0 (slot : Slot) : (s.reportSlot slot).arg0 = s.arg0 := rfl
@[simp] theorem reportSlot_arg1 (slot : Slot) : (s.reportSlot slot).arg1 = s.arg1 := rfl
@[simp] theorem reportSlot_arg2 (slot : Slot) : (s.reportSlot slot).arg2 = s.arg2 := rfl
@[simp] theorem reportSlot_arg3 (slot : Slot) : (s.reportSlot slot).arg3 = s.arg3 := rfl
@[simp] theorem reportSlot_result (slot : Slot) : (s.reportSlot slot).result = slot.getD 0 := rfl
@[simp] theorem reportSlot_found (slot : Slot) : (s.reportSlot slot).found = slot.isSome := rfl
@[simp] theorem reportSlot_fault (slot : Slot) : (s.reportSlot slot).fault = s.fault := rfl
@[simp] theorem reportSlot_bm (slot : Slot) : (s.reportSlot slot).bm = s.bm := rfl
@[simp] theorem reportSlot_hostOps (slot : Slot) : (s.reportSlot slot).hostOps = s.hostOps := rfl
@[simp] theorem reportSlot_hostReads (slot : Slot) : (s.reportSlot slot).hostReads = s.hostReads := rfl
@[simp] theorem reportSlot_resetDraws (slot : Slot) : (s.reportSlot slot).resetDraws = s.resetDraws := rfl

/-! `coreReset` (10_state.md R33) -/

@[simp] theorem coreReset_g0 : s.coreReset.g0 = .unseeded s.resetDraws := rfl
@[simp] theorem coreReset_arg0 : s.coreReset.arg0 = 0 := rfl
@[simp] theorem coreReset_arg1 : s.coreReset.arg1 = 0 := rfl
@[simp] theorem coreReset_arg2 : s.coreReset.arg2 = 0 := rfl
@[simp] theorem coreReset_arg3 : s.coreReset.arg3 = 0 := rfl
@[simp] theorem coreReset_result : s.coreReset.result = 0 := rfl
@[simp] theorem coreReset_found : s.coreReset.found = false := rfl
@[simp] theorem coreReset_fault : s.coreReset.fault = 0 := rfl
@[simp] theorem coreReset_bm : s.coreReset.bm = s.bm := by simp only [coreReset]
@[simp] theorem coreReset_hostOps : s.coreReset.hostOps = s.hostOps := by simp only [coreReset]
@[simp] theorem coreReset_hostReads : s.coreReset.hostReads = s.hostReads := by simp only [coreReset]
@[simp] theorem coreReset_resetDraws : s.coreReset.resetDraws = s.resetDraws + 1 := rfl

/-! Writing a field twice, and writing a field with what it holds -/

@[simp] theorem setG0_setG0 (v w : Generator) : (s.setG0 v).setG0 w = s.setG0 w := rfl
@[simp] theorem setG0_self : s.setG0 s.g0 = s := rfl
@[simp] theorem setArg0_setArg0 (v w : Word) : (s.setArg0 v).setArg0 w = s.setArg0 w := rfl
@[simp] theorem setArg0_self : s.setArg0 s.arg0 = s := rfl
@[simp] theorem setArg1_setArg1 (v w : Word) : (s.setArg1 v).setArg1 w = s.setArg1 w := rfl
@[simp] theorem setArg1_self : s.setArg1 s.arg1 = s := rfl
@[simp] theorem setArg2_setArg2 (v w : Word) : (s.setArg2 v).setArg2 w = s.setArg2 w := rfl
@[simp] theorem setArg2_self : s.setArg2 s.arg2 = s := rfl
@[simp] theorem setArg3_setArg3 (v w : Word) : (s.setArg3 v).setArg3 w = s.setArg3 w := rfl
@[simp] theorem setArg3_self : s.setArg3 s.arg3 = s := rfl
@[simp] theorem setResult_setResult (v w : Word) : (s.setResult v).setResult w = s.setResult w := rfl
@[simp] theorem setResult_self : s.setResult s.result = s := rfl
@[simp] theorem setFound_setFound (v w : Bool) : (s.setFound v).setFound w = s.setFound w := rfl
@[simp] theorem setFound_self : s.setFound s.found = s := rfl
@[simp] theorem setFault_setFault (v w : BitVec 4) : (s.setFault v).setFault w = s.setFault w := rfl
@[simp] theorem setFault_self : s.setFault s.fault = s := rfl
@[simp] theorem setBm_setBm (v w : Memory) : (s.setBm v).setBm w = s.setBm w := rfl
@[simp] theorem setBm_self : s.setBm s.bm = s := rfl
@[simp] theorem setHostOps_setHostOps (v w : List HostOp) : (s.setHostOps v).setHostOps w = s.setHostOps w := rfl
@[simp] theorem setHostOps_self : s.setHostOps s.hostOps = s := rfl

/-! The faulted condition (10_state.md R30) -/

theorem faulted_eq_false {s : State} : s.faulted = false ↔ s.fault = 0 := by simp [faulted]

theorem faulted_eq_true {s : State} : s.faulted = true ↔ s.fault ≠ 0 := by simp [faulted]

@[simp] theorem raiseFault_faulted (c : FaultCode) : (s.raiseFault c).faulted = true := by
  cases c <;> rfl

/-- Every code that R86 names lies in 1..6. -/
theorem code_range (c : FaultCode) : 1 ≤ c.code.toNat ∧ c.code.toNat ≤ 6 := by
  cases c <;> decide

/-- Two states are equal when every field is. -/
theorem ext_fields {s t : State} (h0 : s.g0 = t.g0) (h1 : s.arg0 = t.arg0) (h2 : s.arg1 = t.arg1)
    (h3 : s.arg2 = t.arg2) (h4 : s.arg3 = t.arg3) (h5 : s.result = t.result) (h6 : s.found = t.found)
    (h7 : s.fault = t.fault) (h8 : s.bm = t.bm) (h9 : s.hostOps = t.hostOps)
    (h10 : s.hostReads = t.hostReads) (h11 : s.resetDraws = t.resetDraws) : s = t := by
  cases s
  cases t
  simp_all

/-! The status word, field by field (10_state.md R27) -/

theorem status_fields (f : BitVec 4) (b c : Bool) :
    (0#20 ++ f ++ 0#6 ++ BitVec.ofBool b ++ BitVec.ofBool c : BitVec 32).getLsbD 0 = c ∧
    (0#20 ++ f ++ 0#6 ++ BitVec.ofBool b ++ BitVec.ofBool c : BitVec 32).getLsbD 1 = b ∧
    (0#20 ++ f ++ 0#6 ++ BitVec.ofBool b ++ BitVec.ofBool c : BitVec 32).extractLsb' 2 6 = 0 ∧
    (0#20 ++ f ++ 0#6 ++ BitVec.ofBool b ++ BitVec.ofBool c : BitVec 32).extractLsb' 8 4 = f ∧
    (0#20 ++ f ++ 0#6 ++ BitVec.ofBool b ++ BitVec.ofBool c : BitVec 32).extractLsb' 12 20 = 0 := by
  revert f b c
  decide

end Sys2Proof.Machine.State
end

