-- ==== Sys2Proof/Laws/Command.lean ====
section
/-! SUPPORT. What running a command behind its checks can do (60_exceptions.md R93 to R95). -/

namespace Sys2Proof.Machine

/-- Everything `runCommand` can do: nothing (faulted core), record one fault, or have the effect. -/
theorem runCommand_cases {s t : State} {checks : List (Bool × FaultCode)} {effect : Unit → State}
    (h : runCommand s checks effect = .next t) :
    (s.fault ≠ 0 ∧ t = s) ∨
    (s.fault = 0 ∧ ∃ c, firstFault checks = some c ∧ t = s.raiseFault c) ∨
    (s.fault = 0 ∧ firstFault checks = none ∧ t = effect ()) := by
  unfold runCommand at h
  split at h
  case isTrue hf =>
    cases h
    exact .inl ⟨State.faulted_eq_true.mp hf, rfl⟩
  case isFalse hf =>
    have hf : s.fault = 0 := State.faulted_eq_false.mp (by simpa using hf)
    split at h
    next c hc =>
      cases h
      exact .inr (.inl ⟨hf, c, hc, rfl⟩)
    next hc =>
      cases h
      exact .inr (.inr ⟨hf, hc, rfl⟩)

/-- A faulted core executes no command (10_state.md R30). -/
theorem runCommand_faulted {s : State} (h : s.fault ≠ 0) (checks : List (Bool × FaultCode)) (effect : Unit → State) :
    runCommand s checks effect = .next s := by
  simp [runCommand, State.faulted_eq_true.mpr h]

/-- A running core reports the first check that fails. -/
theorem runCommand_fault {s : State} {checks : List (Bool × FaultCode)} {c : FaultCode} (h : s.fault = 0)
    (hc : firstFault checks = some c) (effect : Unit → State) :
    runCommand s checks effect = .next (s.raiseFault c) := by
  simp [runCommand, State.faulted_eq_false.mpr h, hc]

/-- A running core whose checks all pass has the effect. -/
theorem runCommand_effect {s : State} {checks : List (Bool × FaultCode)} (h : s.fault = 0)
    (hc : firstFault checks = none) (effect : Unit → State) : runCommand s checks effect = .next (effect ()) := by
  simp [runCommand, State.faulted_eq_false.mpr h, hc]

/-- Every command answers a next state (70_reset_and_hazards.md R112). -/
theorem runCommand_next (s : State) (checks : List (Bool × FaultCode)) (effect : Unit → State) :
    ∃ t, runCommand s checks effect = .next t := by
  unfold runCommand
  split
  · exact ⟨_, rfl⟩
  · split <;> exact ⟨_, rfl⟩

@[simp] theorem firstFault_nil : firstFault [] = none := rfl

@[simp] theorem firstFault_true (c : FaultCode) (t : List (Bool × FaultCode)) :
    firstFault ((true, c) :: t) = some c := rfl

@[simp] theorem firstFault_false (c : FaultCode) (t : List (Bool × FaultCode)) :
    firstFault ((false, c) :: t) = firstFault t := rfl

/-- The fault reported belongs to a check that fails. -/
theorem mem_of_firstFault {checks : List (Bool × FaultCode)} {c : FaultCode} (h : firstFault checks = some c) :
    (true, c) ∈ checks := by
  induction checks with
  | nil => simp at h
  | cons p t ih =>
    obtain ⟨b, d⟩ := p
    cases b with
    | true => simpa using Or.inl (Option.some.inj h).symm
    | false => exact List.mem_cons_of_mem _ (ih h)

/-- No check fails exactly when every one passes. -/
theorem firstFault_eq_none {checks : List (Bool × FaultCode)} :
    firstFault checks = none ↔ ∀ p ∈ checks, p.1 = false := by
  induction checks with
  | nil => simp
  | cons p t ih =>
    obtain ⟨b, c⟩ := p
    cases b <;> simp [ih]

/-- A buffer is valid when it ends at or below the top of buffer memory (20_memory.md R41). -/
theorem Buffer.valid_eq_true {b : Buffer} : b.valid = true ↔ b.base + b.len ≤ 2 ^ 32 := decide_eq_true_iff

/-- A buffer is not valid when it runs past the top (20_memory.md R41). -/
theorem Buffer.valid_eq_false {b : Buffer} : b.valid = false ↔ 2 ^ 32 < b.base + b.len := by
  rw [← Bool.not_eq_true, Buffer.valid_eq_true, Nat.not_le]

end Sys2Proof.Machine
end

