-- ==== Sys2Proof/Laws/Generator.lean ====
section
/-! SUPPORT. The generator: what INIT, TWIST and NEXT leave where, and k extractions one after another (40_generator.md). -/

namespace Sys2Proof.Machine

/-! ## INIT (R60) -/

theorem seedWords_step (prev : Word) (i count j : Nat) (h : j < count) :
    (prev :: seedWords prev i count)[j + 1]? =
      ((prev :: seedWords prev i count)[j]?).map (seedStep (i + j)) := by
  induction count generalizing prev i j with
  | zero => omega
  | succ n ih =>
    cases j with
    | zero => simp [seedWords]
    | succ j =>
      have := ih (seedStep i prev) (i + 1) j (by omega)
      have heq : i + 1 + j = i + (j + 1) := by omega
      simpa [seedWords, heq] using this

/-- A word of `init`, by its place in the list. -/
theorem getElem?_init (v : Word) (i : Nat) : (init v)[i]? = (v :: seedWords v 1 (Config.N - 1))[i]? := by
  rw [init, Vector.getElem?_mk, List.getElem?_toArray]

/-- `mt[0] = v` (R60). -/
@[simp] theorem init_zero (v : Word) : (init v)[0] = v := by simp [init]

/-- `mt[i+1]` comes from `mt[i]` by the recurrence (R60). -/
theorem init_succ (v : Word) (i : Nat) (h : i + 1 < Config.N) :
    (init v)[i + 1] = seedStep (i + 1) ((init v)[i]'(Nat.lt_of_succ_lt h)) := by
  have hstep := seedWords_step v 1 (Config.N - 1) i (Nat.lt_sub_of_add_lt h)
  rw [← getElem?_init, ← getElem?_init, Vector.getElem?_eq_getElem h, Vector.getElem?_eq_getElem (Nat.lt_of_succ_lt h),
    Nat.add_comm 1 i] at hstep
  exact Option.some.inj hstep

/-! ## TWIST (R61) -/

theorem wordAt_of_lt (mt : MtVector) {k : Nat} (h : k < Config.N) : wordAt mt k = mt[k] := by
  simp only [wordAt, Nat.mod_eq_of_lt h]

/-- Step i of TWIST writes word i and no other. -/
theorem getElem_twistStep (mt : MtVector) {i p : Nat} (hi : i < Config.N) (hp : p < Config.N) :
    (twistStep mt i)[p] = if i = p then twistWord mt i else mt[p] := by
  simp only [twistStep, Nat.mod_eq_of_lt hi, Vector.getElem_set]

/-- Word p keeps its old value until step p. -/
theorem getElem_twistSteps_of_le (mt : MtVector) {k p : Nat} (hk : k ≤ p) (hp : p < Config.N) :
    (twistSteps mt k)[p] = mt[p] := by
  induction k with
  | zero => rfl
  | succ i ih =>
    rw [twistSteps, getElem_twistStep _ (by omega) hp, if_neg (by omega), ih (by omega)]

/-- Word p, once step p has written it, keeps that value to the end of the twist. -/
theorem getElem_twistSteps_of_lt (mt : MtVector) {k p : Nat} (hp : p < k) (hk : k ≤ Config.N) :
    (twistSteps mt k)[p] = twistWord (twistSteps mt p) p := by
  induction k with
  | zero => omega
  | succ i ih =>
    rw [twistSteps, getElem_twistStep _ (by omega) (by omega)]
    by_cases h : i = p
    · simp [h]
    · rw [if_neg h, ih (by omega) (by omega)]

/-- The word TWIST leaves at index p: step p's word, from the vector as step p finds it (R61). -/
theorem getElem_twist (mt : MtVector) {p : Nat} (hp : p < Config.N) :
    (twist mt)[p] = twistWord (twistSteps mt p) p :=
  getElem_twistSteps_of_lt mt hp (Nat.le_refl _)

/-- What step k of TWIST finds at index p: the new word when p < k, the old one otherwise (R61, "in place"). -/
theorem getElem_twistSteps (mt : MtVector) {k p : Nat} (hk : k ≤ Config.N) (hp : p < Config.N) :
    (twistSteps mt k)[p] = if p < k then (twist mt)[p] else mt[p] := by
  split
  next h => rw [getElem_twistSteps_of_lt mt h hk, getElem_twist mt hp]
  next h => exact getElem_twistSteps_of_le mt (by omega) hp

/-! ## NEXT (R63) -/

namespace Generator

variable (g : Generator)

theorem ready_of_end (h : g.idx.val = Config.N) : g.ready = (twist g.mt, 0) := by simp only [ready, h, dif_pos]

theorem ready_of_inside (h : g.idx.val < Config.N) : g.ready = (g.mt, ⟨g.idx.val, h⟩) := by
  simp only [ready, dif_neg (Nat.ne_of_lt h)]

@[simp] theorem next_fst : g.next.1 = g.nextWord := rfl
@[simp] theorem next_snd : g.next.2 = g.afterNext := rfl
@[simp] theorem afterNext_seeded : g.afterNext.seeded = g.seeded := rfl
@[simp] theorem kbyte_fst : g.kbyte.1 = g.nextWord.extractLsb' 0 8 := rfl
@[simp] theorem kbyte_snd : g.kbyte.2 = g.afterNext := rfl
@[simp] theorem fresh_seeded (v : Word) : (fresh v).seeded = true := rfl
@[simp] theorem fresh_mt (v : Word) : (fresh v).mt = init v := rfl
@[simp] theorem fresh_idx (v : Word) : (fresh v).idx.val = Config.N := rfl

/-- An extraction that finds the sentinel twists and leaves the cursor at 1 (R63). -/
theorem afterNext_of_end (h : g.idx.val = Config.N) :
    g.afterNext.mt = twist g.mt ∧ g.afterNext.idx.val = 1 := by
  simp [afterNext, ready_of_end g h]

/-- Any other extraction keeps the vector and advances the cursor (R63). -/
theorem afterNext_of_inside (h : g.idx.val < Config.N) :
    g.afterNext.mt = g.mt ∧ g.afterNext.idx.val = g.idx.val + 1 := by
  simp [afterNext, ready_of_inside g h]

theorem nextWord_of_end (h : g.idx.val = Config.N) : g.nextWord = temper ((twist g.mt)[0]) := by
  simp only [nextWord, ready_of_end g h]
  rfl

theorem nextWord_of_inside (h : g.idx.val < Config.N) : g.nextWord = temper (g.mt[g.idx.val]) := by
  simp only [nextWord, ready_of_inside g h]

/-! ## k extractions -/

@[simp] theorem advance_zero : g.advance 0 = g := rfl

theorem advance_succ (k : Nat) : g.advance (k + 1) = (g.advance k).afterNext := rfl

theorem advance_add (a b : Nat) : g.advance (a + b) = (g.advance a).advance b := by
  induction b with
  | zero => rfl
  | succ b ih => rw [← Nat.add_assoc, advance_succ, advance_succ, ih]

theorem advance_afterNext (k : Nat) : g.afterNext.advance k = g.advance (k + 1) := by
  rw [Nat.add_comm, advance_add]
  rfl

@[simp] theorem advance_seeded (k : Nat) : (g.advance k).seeded = g.seeded := by
  induction k with
  | zero => rfl
  | succ k ih => simpa [advance_succ] using ih

@[simp] theorem length_keystream (n : Nat) : (g.keystream n).length = n := by
  induction n generalizing g with
  | zero => rfl
  | succ n ih => simp [keystream, ih]

/-- Keystream byte j is the low byte of the word that extraction j returns (41_stream_cipher.md R68). -/
theorem getElem_keystream {n j : Nat} (h : j < (g.keystream n).length) :
    (g.keystream n)[j] = (g.advance j).nextWord.extractLsb' 0 8 := by
  induction n generalizing g j with
  | zero => simp at h
  | succ n ih =>
    cases j with
    | zero => simp [keystream]
    | succ j =>
      have hj : j < (g.afterNext.keystream n).length := by simpa [keystream] using h
      simpa [keystream, advance_afterNext] using ih g.afterNext hj

end Generator

/-! ## KSTREAM and TOKEN's bytes (41_stream_cipher.md R69) -/

@[simp] theorem length_kstream (s : Word) (n : Nat) : (kstream s n).length = n := by simp [kstream]

theorem getElem_kstream {s : Word} {n j : Nat} (h : j < (kstream s n).length) :
    (kstream s n)[j] = ((Generator.fresh s).advance j).nextWord.extractLsb' 0 8 :=
  Generator.getElem_keystream _ h

end Sys2Proof.Machine
end

