-- ==== Sys2Proof/Laws/Memory.lean ====
section
/-! SUPPORT. Buffer memory: a read after a write, other bytes untouched, the canonical form kept (20_memory.md R38, R43), and
the same for runs of bytes. -/

namespace Sys2Proof.Machine.Memory

theorem find_insertCell_same (a : Nat) (v : Byte) (cs : List Host.Cell) (h : ∀ c ∈ cs, c.1 ≠ a) :
    (insertCell a v cs).find? (fun c => c.1 == a) = some (a, v) := by
  induction cs with
  | nil => simp [insertCell]
  | cons c cs ih =>
    have hc : c.1 ≠ a := h c (by simp)
    by_cases hlt : a < c.1
    · simp [insertCell, hlt]
    · simp [insertCell, hlt, hc, ih fun d hd => h d (by simp [hd])]

theorem find_insertCell_other {a b : Nat} (v : Byte) (cs : List Host.Cell) (h : b ≠ a) :
    (insertCell a v cs).find? (fun c => c.1 == b) = cs.find? (fun c => c.1 == b) := by
  have hab : (a == b) = false := by simp [Ne.symm h]
  induction cs with
  | nil => simp [insertCell, hab]
  | cons c cs ih =>
    by_cases hlt : a < c.1
    · simp [insertCell, hlt, hab]
    · simp only [insertCell, hlt, if_false, List.find?_cons, ih]

theorem find_filter_other {a b : Nat} (cs : List Host.Cell) (h : b ≠ a) :
    (cs.filter fun c => c.1 != a).find? (fun c => c.1 == b) = cs.find? (fun c => c.1 == b) := by
  induction cs with
  | nil => rfl
  | cons c cs ih =>
    by_cases hc : c.1 = a
    · have hb : (c.1 == b) = false := by simp [hc, Ne.symm h]
      simp [hc, ih, Ne.symm h]
    · simp [hc, ih, List.find?_cons]

/-- A byte read after it was written is the byte written (R43). -/
@[simp] theorem read_write_same (m : Memory) (a : Nat) (v : Byte) : (m.write a v).read a = v := by
  have hne : ∀ c ∈ m.cells.filter (fun c => c.1 != a), c.1 ≠ a := by simp
  by_cases hv : v = Config.unlistedByte
  · have hnone : (m.cells.filter fun c => c.1 != a).find? (fun c => c.1 == a) = none := by
      simp [List.find?_eq_none]
    simp [write, read, hv, hnone]
  · simp [write, read, hv, find_insertCell_same a v _ hne]

/-- A write leaves every other byte alone (R38). -/
theorem read_write_other {m : Memory} {a b : Nat} (v : Byte) (h : b ≠ a) : (m.write a v).read b = m.read b := by
  by_cases hv : v = Config.unlistedByte
  · simp [write, read, hv, find_filter_other m.cells h]
  · simp [write, read, hv, find_insertCell_other v _ h, find_filter_other m.cells h]

theorem mem_insertCell {a : Nat} {v : Byte} {c : Host.Cell} {cs : List Host.Cell} (h : c ∈ insertCell a v cs) :
    c = (a, v) ∨ c ∈ cs := by
  induction cs with
  | nil => simpa [insertCell] using h
  | cons d cs ih =>
    by_cases hlt : a < d.1
    · simpa [insertCell, hlt] using h
    · simp only [insertCell, hlt, if_false, List.mem_cons] at h
      rcases h with rfl | h
      · simp
      · rcases ih h with h | h <;> simp [h]

theorem insertCell_pairwise {a : Nat} {v : Byte} {cs : List Host.Cell}
    (hs : cs.Pairwise fun c d => c.1 < d.1) (hne : ∀ c ∈ cs, c.1 ≠ a) :
    (insertCell a v cs).Pairwise fun c d => c.1 < d.1 := by
  induction cs with
  | nil => simp [insertCell]
  | cons c cs ih =>
    obtain ⟨hc, hcs⟩ := List.pairwise_cons.mp hs
    by_cases hlt : a < c.1
    · simp only [insertCell, hlt, if_true]
      refine List.pairwise_cons.mpr ⟨fun d hd => ?_, hs⟩
      rcases List.mem_cons.mp hd with rfl | hd
      · exact hlt
      · exact hlt.trans (hc d hd)
    · simp only [insertCell, hlt, if_false]
      refine List.pairwise_cons.mpr ⟨fun d hd => ?_, ih hcs fun d hd => hne d (by simp [hd])⟩
      rcases mem_insertCell hd with rfl | hd
      · have := hne c (by simp)
        show c.1 < a
        omega
      · exact hc d hd

/-- A write inside buffer memory keeps the canonical form. -/
theorem wf_write {m : Memory} {a : Nat} (v : Byte) (hm : m.wf) (ha : a < Config.bmSize) : (m.write a v).wf := by
  obtain ⟨hs, hcells⟩ := hm
  have hs' : (m.cells.filter fun c => c.1 != a).Pairwise fun c d => c.1 < d.1 := hs.filter _
  by_cases hv : v = Config.unlistedByte
  · refine ⟨by simpa [write, hv] using hs', fun c hc => hcells c ?_⟩
    simp only [write, hv, if_true, List.mem_filter] at hc
    exact hc.1
  · refine ⟨by simpa [write, hv] using insertCell_pairwise hs' (by simp), fun c hc => ?_⟩
    simp only [write, hv, if_false] at hc
    rcases mem_insertCell hc with rfl | hc
    · exact ⟨ha, hv⟩
    · exact hcells c (List.mem_filter.mp hc).1

/-- Empty memory has the canonical form. -/
theorem wf_empty : Memory.wf ⟨[]⟩ := by simp [wf]

/-! Runs of bytes -/

@[simp] theorem length_readBytes (m : Memory) (base len : Nat) : (m.readBytes base len).length = len := by
  simp [readBytes]

theorem getElem_readBytes {m : Memory} {base len j : Nat} (h : j < (m.readBytes base len).length) :
    (m.readBytes base len)[j] = m.read (base + j) := by
  simp [readBytes]

/-- Bytes written at ascending addresses leave every byte outside the run alone (R42). -/
theorem read_writeBytes_outside {m : Memory} {base a : Nat} {bs : List Byte}
    (h : a < base ∨ base + bs.length ≤ a) : (m.writeBytes base bs).read a = m.read a := by
  induction bs generalizing m base with
  | nil => rfl
  | cons b bs ih =>
    simp only [List.length_cons] at h
    rw [writeBytes, ih (by omega), read_write_other b (by omega)]

/-- Byte j of a run that was written is byte j of the bytes. -/
theorem read_writeBytes_inside {m : Memory} {base : Nat} {bs : List Byte} {j : Nat} (h : j < bs.length) :
    (m.writeBytes base bs).read (base + j) = bs[j] := by
  induction bs generalizing m base j with
  | nil => simp at h
  | cons b bs ih =>
    cases j with
    | zero => rw [writeBytes, read_writeBytes_outside (by omega)]; simp
    | succ j =>
      have hj : j < bs.length := by simpa using h
      have heq : base + (j + 1) = base + 1 + j := by omega
      rw [writeBytes, heq, ih hj]
      simp

/-- A run written inside buffer memory keeps the canonical form. -/
theorem wf_writeBytes {m : Memory} {base : Nat} {bs : List Byte} (hm : m.wf)
    (h : base + bs.length ≤ Config.bmSize) : (m.writeBytes base bs).wf := by
  induction bs generalizing m base with
  | nil => exact hm
  | cons b bs ih =>
    simp only [List.length_cons] at h
    exact ih (wf_write b hm (by omega)) (by omega)

@[simp] theorem length_buffer (m : Memory) (b : Buffer) : (m.buffer b).length = b.len := by simp [buffer]

theorem getElem_buffer {m : Memory} {b : Buffer} {j : Nat} (h : j < (m.buffer b).length) :
    (m.buffer b)[j] = m.read (b.base + j) := getElem_readBytes h

end Sys2Proof.Machine.Memory
end

