-- ==== Sys2Proof/Laws/Cipher.lean ====
section
/-! SUPPORT. What CRYPT's loop leaves in the generator and in buffer memory (41_stream_cipher.md R70, 20_memory.md R42). -/

namespace Sys2Proof.Machine

variable (inBase outBase : Nat) (g : Generator) (m : Memory)

/-- n iterations take n extractions (R68). -/
@[simp] theorem cryptLoop_generator (n : Nat) : (cryptLoop inBase outBase g m n).1 = g.advance n := by
  induction n with
  | zero => rfl
  | succ n ih => simp [cryptLoop, ih, Generator.advance_succ]

/-- One more iteration: the write of output byte n. -/
theorem cryptLoop_succ (n : Nat) :
    (cryptLoop inBase outBase g m (n + 1)).2 =
      (cryptLoop inBase outBase g m n).2.write (outBase + n)
        ((cryptLoop inBase outBase g m n).2.read (inBase + n) ^^^ (g.advance n).nextWord.extractLsb' 0 8) := by
  simp [cryptLoop]

/-- Bytes outside the output run are untouched (20_memory.md R36). -/
theorem cryptLoop_outside {n a : Nat} (h : a < outBase ∨ outBase + n ≤ a) :
    (cryptLoop inBase outBase g m n).2.read a = m.read a := by
  induction n with
  | zero => rfl
  | succ n ih => rw [cryptLoop_succ, Memory.read_write_other _ (by omega), ih (by omega)]

/-- Output byte j is written once, by iteration j, from input byte j as that iteration finds it (20_memory.md R42, R44). -/
theorem cryptLoop_byte {n j : Nat} (h : j < n) :
    (cryptLoop inBase outBase g m n).2.read (outBase + j) =
      (cryptLoop inBase outBase g m j).2.read (inBase + j) ^^^ (g.advance j).nextWord.extractLsb' 0 8 := by
  induction n with
  | zero => omega
  | succ n ih =>
    rw [cryptLoop_succ]
    by_cases hj : j = n
    · rw [hj, Memory.read_write_same]
    · rw [Memory.read_write_other _ (by omega), ih (by omega)]

/-- An output byte, once written, keeps its value to the end of the loop. -/
theorem cryptLoop_settled {n j a : Nat} (hj : j ≤ n) (ha : a < outBase + j) :
    (cryptLoop inBase outBase g m j).2.read a = (cryptLoop inBase outBase g m n).2.read a := by
  induction n with
  | zero => rw [Nat.le_zero.mp hj]
  | succ n ih =>
    by_cases h : j = n + 1
    · rw [h]
    · rw [cryptLoop_succ, Memory.read_write_other _ (by omega), ih (by omega)]

/-- The loop keeps the canonical form of buffer memory. -/
theorem cryptLoop_wf {n : Nat} (hm : m.wf) (h : outBase + n ≤ Config.bmSize) :
    (cryptLoop inBase outBase g m n).2.wf := by
  induction n with
  | zero => exact hm
  | succ n ih =>
    rw [cryptLoop_succ]
    exact Memory.wf_write _ (ih (by omega)) (by omega)

end Sys2Proof.Machine
end

