-- ==== Sys2Proof/Laws/PerInstr.lean ====
section
/-! SUPPORT. Statements made for every command, one lemma per constructor. -/

namespace Sys2Proof.Laws.LegalWord

/-- A command is well formed, and its word is a legal one (30_encoding.md R59): the reserved field is zero, the opcode field
is its opcode, and the opcode lies in 0x01..0x06. -/
def Statement (i : Instr) : Prop :=
  i.wellFormed = true ∧ rsvField (encode i) = 0 ∧ opcField (encode i) = opcode i ∧ 0x01 ≤ opcode i ∧ opcode i ≤ 0x06

theorem seed : Statement .seed := by unfold Statement; decide

theorem extract : Statement .extract := by unfold Statement; decide

theorem crypt : Statement .crypt := by unfold Statement; decide

theorem gentoken : Statement .gentoken := by unfold Statement; decide

theorem validate : Statement .validate := by unfold Statement; decide

theorem brute : Statement .brute := by unfold Statement; decide

end Sys2Proof.Laws.LegalWord
end

