-- ==== Sys2Proof/Laws/Search.lean ====
section
/-! SUPPORT. What a sequential search reports (42_seed_search.md R82), and when a candidate matches (R76, R80), byte by
byte. -/

namespace Sys2Proof.Machine

variable (feeder : Nat → Word) (isMatch : Word → Bool)

/-- A search reports nothing exactly when no candidate matches. -/
theorem searchFrom_eq_none {k count : Nat} :
    searchFrom feeder isMatch k count = none ↔ ∀ j < count, isMatch (feeder (k + j)) = false := by
  induction count generalizing k with
  | zero => simp [searchFrom]
  | succ n ih =>
    cases hm : isMatch (feeder k) with
    | true =>
      simp only [searchFrom, hm, if_true]
      exact ⟨nofun, fun h => by simpa [hm] using h 0 (by omega)⟩
    | false =>
      simp only [searchFrom, hm, Bool.false_eq_true, if_false, ih]
      constructor
      · intro h j hj
        cases j with
        | zero => exact hm
        | succ j => simpa [Nat.add_assoc, Nat.add_comm 1] using h j (by omega)
      · intro h j hj
        simpa [Nat.add_assoc, Nat.add_comm 1] using h (j + 1) (by omega)

/-- What a search reports is the first candidate in feeder order that matches (R82). -/
theorem searchFrom_eq_some {k count : Nat} {c : Word} (h : searchFrom feeder isMatch k count = some c) :
    ∃ j < count, c = feeder (k + j) ∧ isMatch c = true ∧ ∀ i < j, isMatch (feeder (k + i)) = false := by
  induction count generalizing k with
  | zero => simp [searchFrom] at h
  | succ n ih =>
    cases hm : isMatch (feeder k) with
    | true =>
      simp only [searchFrom, hm, if_true, Option.some.injEq] at h
      exact ⟨0, by omega, h.symm, h ▸ hm, by omega⟩
    | false =>
      simp only [searchFrom, hm, Bool.false_eq_true, if_false] at h
      obtain ⟨j, hj, rfl, hc, hbefore⟩ := ih h
      refine ⟨j + 1, by omega, by simp [Nat.add_assoc, Nat.add_comm 1], hc, fun i hi => ?_⟩
      cases i with
      | zero => exact hm
      | succ i => simpa [Nat.add_assoc, Nat.add_comm 1] using hbefore i (by omega)

/-- A search reports the first candidate that matches. -/
theorem searchFrom_first {feeder : Nat → Word} {isMatch : Word → Bool} {k count : Nat} (hk : k < count)
    (hm : isMatch (feeder k) = true) (hbefore : ∀ i < k, isMatch (feeder i) = false) :
    searchFrom feeder isMatch 0 count = some (feeder k) := by
  cases h : searchFrom feeder isMatch 0 count with
  | none =>
    have := (searchFrom_eq_none feeder isMatch).mp h k hk
    simp [hm] at this
  | some c =>
    obtain ⟨j, _, rfl, hc, hbj⟩ := searchFrom_eq_some feeder isMatch h
    simp only [Nat.zero_add] at hc hbj ⊢
    rcases Nat.lt_trichotomy j k with hjk | rfl | hjk
    · simp [hbefore j hjk] at hc
    · rfl
    · simp [hbj k hjk] at hm

/-- BRUTE's candidate k is the number k (R79). -/
theorem bruteFeeder_eq {k : Nat} (h : k < Config.seedSpace) : bruteFeeder k = BitVec.ofNat 32 k := by
  apply BitVec.eq_of_toNat_eq
  simp only [Config.seedSpace] at h
  simp [bruteFeeder]
  omega

@[simp] theorem length_token (s : Word) : (token s).length = Config.tokenLen := by simp [token]

/-- Token byte j (R73). -/
theorem getElem_token {s : Word} {j : Nat} (h : j < (token s).length) :
    (token s)[j] = ((Generator.fresh s).advance j).nextWord.extractLsb' 0 8 := getElem_kstream h

/-- VALIDATE's comparator, byte by byte (R76). -/
theorem validateMatches_iff {m : Memory} {b : Buffer} {c : Word} :
    validateMatches (m.buffer b) c = true ↔
      b.len = Config.tokenLen ∧
      ∀ j < Config.tokenLen, ((Generator.fresh c).advance j).nextWord.extractLsb' 0 8 = m.read (b.base + j) := by
  simp only [validateMatches, Bool.and_eq_true, beq_iff_eq, Memory.length_buffer]
  constructor
  · rintro ⟨hl, he⟩
    refine ⟨hl, fun j hj => ?_⟩
    have h1 : j < (token c).length := by simpa using hj
    have h2 : j < (m.buffer b).length := by simpa [hl] using hj
    rw [← getElem_token h1, ← Memory.getElem_buffer h2]
    exact List.getElem_of_eq he h1
  · rintro ⟨hl, he⟩
    refine ⟨hl, List.ext_getElem (by simp [hl]) fun j h1 h2 => ?_⟩
    rw [getElem_token h1, Memory.getElem_buffer h2]
    exact he j (by simpa using h1)

/-- BRUTE's comparator, byte by byte over the known suffix (R80). -/
theorem bruteMatches_iff {m : Memory} {ct suf : Buffer} {c : Word} (h : suf.len ≤ ct.len) :
    bruteMatches (m.buffer ct) (m.buffer suf) c = true ↔
      ∀ j < suf.len,
        m.read (ct.base + (ct.len - suf.len + j)) ^^^
            ((Generator.fresh c).advance (ct.len - suf.len + j)).nextWord.extractLsb' 0 8 =
          m.read (suf.base + j) := by
  simp only [bruteMatches, beq_iff_eq, Memory.length_buffer]
  constructor
  · intro he j hj
    have h2 : j < (m.buffer suf).length := by simpa using hj
    have h3 := List.getElem_of_eq he.symm h2
    rw [Memory.getElem_buffer h2] at h3
    simpa [Memory.getElem_buffer, getElem_kstream] using h3.symm
  · intro he
    refine List.ext_getElem (by simp; omega) fun j h1 h2 => ?_
    rw [Memory.getElem_buffer h2]
    simpa [Memory.getElem_buffer, getElem_kstream] using he j (by simpa using h2)

end Sys2Proof.Machine
end

