-- ==== Sys2Proof/Laws/Step.lean ====
section
/-! SUPPORT. What a command and a step can do, said once: `exec` as checks and an effect, and the forms of a step. -/

namespace Sys2Proof.Machine

/-- A command's checks, in order (60_exceptions.md R95). -/
def checksOf : Instr → State → List (Bool × FaultCode)
  | .seed, _     => []
  | .extract, s  => [(!s.g0.seeded, .unseeded)]
  | .crypt, s    => cryptChecks s
  | .gentoken, s => [(!s.tokenOut.valid, .range)]
  | .validate, s => validateChecks s
  | .brute, s    => bruteChecks s

/-- A command's effect when no check fails. -/
def effectOf : Instr → State → State
  | .seed, s     => s.setG0 (.fresh s.arg0)
  | .extract, s  => (s.setG0 s.g0.afterNext).setResult s.g0.nextWord
  | .crypt, s    =>
    (s.setG0 (s.g0.advance s.cryptIn.len)).setBm (cryptLoop s.cryptIn.base s.cryptOut.base s.g0 s.bm s.cryptIn.len).2
  | .gentoken, s => s.setBm (s.bm.writeBytes s.tokenOut.base (token s.arg0))
  | .validate, s => s.reportSlot (validateSearch s)
  | .brute, s    => s.reportSlot (bruteSearch s)

/-- Every command is its effect behind its checks. -/
theorem exec_eq (i : Instr) (s : State) : exec i s = runCommand s (checksOf i s) fun _ => effectOf i s := by
  cases i with
  | crypt => simp only [exec, execCrypt, checksOf, effectOf, cryptLoop_generator]
  | seed => rfl
  | extract => rfl
  | gentoken => rfl
  | validate => rfl
  | brute => rfl

/-- Everything a command can do: nothing on a faulted core, one fault, or its effect. -/
theorem exec_cases {i : Instr} {s t : State} (h : exec i s = .next t) :
    (s.fault ≠ 0 ∧ t = s) ∨
    (s.fault = 0 ∧ ∃ c, firstFault (checksOf i s) = some c ∧ t = s.raiseFault c) ∨
    (s.fault = 0 ∧ firstFault (checksOf i s) = none ∧ t = effectOf i s) :=
  runCommand_cases (exec_eq i s ▸ h)

/-- Every command answers a next state (70_reset_and_hazards.md R112). -/
theorem exec_next (i : Instr) (s : State) : ∃ t, exec i s = .next t := by
  rw [exec_eq]
  exact runCommand_next ..

/-- With no host operation pending, a step changes nothing. -/
theorem step_of_nil {s : State} (h : s.hostOps = []) : step s = .next s := by simp [step, hostStep, h]

/-- A step carries out the oldest pending host operation. -/
theorem step_of_cons {s : State} {op : HostOp} {later : List HostOp} (h : s.hostOps = op :: later) :
    step s = hostOp op (s.setHostOps later) := by simp [step, hostStep, h]

/-- Each register is reached by a whole access at its offset (10_state.md R23). -/
@[simp] theorem resolve_whole (r : WindowReg) : (WindowAccess.whole r.offset).resolve = .ok r := by
  cases r <;> rfl

/-- The offsets of the window, and no others (10_state.md R28). -/
theorem atOffset_eq_some {off : Nat} {r : WindowReg} : WindowReg.atOffset off = some r ↔ off = r.offset := by
  constructor
  · intro h
    unfold WindowReg.atOffset at h
    split at h <;> simp_all [WindowReg.offset] <;> subst h <;> rfl
  · rintro rfl
    cases r <;> rfl

/-- No two registers share a bus address, wherever WINDOW_BASE is (R23). -/
theorem busAddress_injective {r r' : WindowReg}
    (h : (WindowAccess.whole r.offset).busAddress = (WindowAccess.whole r'.offset).busAddress) : r = r' := by
  have ho : r.offset = r'.offset := by simpa [WindowAccess.busAddress] using h
  cases r <;> cases r' <;> first | rfl | (simp [WindowReg.offset] at ho)

theorem windowAccess_wellFormed {off bytes : Nat} :
    (WindowAccess.mk off bytes).wellFormed = true ↔ bytes = 4 ∧ off % 4 = 0 ∧ off < 32 := by
  simp only [WindowAccess.wellFormed, Bool.and_eq_true, beq_iff_eq, decide_eq_true_eq, and_assoc]

/-- An access of the interface reaches a register (R29). -/
theorem resolve_of_wellFormed {a : WindowAccess} (h : a.wellFormed = true) : ∃ r, a.resolve = .ok r := by
  obtain ⟨off, bytes⟩ := a
  obtain ⟨rfl, h4, h32⟩ := windowAccess_wellFormed.mp h
  have hoff : off = 0 ∨ off = 4 ∨ off = 8 ∨ off = 12 ∨ off = 16 ∨ off = 20 ∨ off = 24 ∨ off = 28 := by omega
  rcases hoff with rfl | rfl | rfl | rfl | rfl | rfl | rfl | rfl <;> exact ⟨_, rfl⟩

/-- The register an access reaches is the one at its offset. -/
theorem eq_whole_of_resolve {a : WindowAccess} {r : WindowReg} (h : a.resolve = .ok r) : a = .whole r.offset := by
  obtain ⟨off, bytes⟩ := a
  unfold WindowAccess.resolve at h
  split at h
  case isTrue => cases h
  case isFalse hb =>
    split at h
    case isTrue => cases h
    case isFalse =>
      split at h
      next r' hr =>
        cases h
        have hoff : off = r.offset := atOffset_eq_some.mp hr
        have hbytes : bytes = 4 := by simpa using hb
        rw [hoff, hbytes]
      next => cases h

/-- Any other access is refused (R29). -/
theorem resolve_of_not_wellFormed {a : WindowAccess} (h : ¬a.wellFormed = true) : ∃ why, a.resolve = .error why := by
  cases hr : a.resolve with
  | error why => exact ⟨why, rfl⟩
  | ok r =>
    refine absurd ?_ h
    rw [eq_whole_of_resolve hr]
    cases r <;> rfl

/-! ## One step -/

/-- What a step does when `op` comes next. -/
theorem step_withNext (s : State) (op : HostOp) : step (s.withNext op) = hostOp op s := by
  simp only [State.withNext, step, hostStep, State.setHostOps_hostOps, State.setHostOps_setHostOps,
    State.setHostOps_self]

/-- What a step does when a CMD write comes next. -/
theorem step_withCmdWrite (s : State) (w : Word) : step (s.withCmdWrite w) = writeCmd w s := by
  simp only [State.withCmdWrite, step_withNext, hostOp, hostWrite, resolve_whole, writeReg]

/-- A CMD write never stops the machine. -/
theorem writeCmd_next (w : Word) (s : State) : ∃ t, writeCmd w s = .next t := by
  unfold writeCmd
  split
  · exact exec_next _ _
  · exact runCommand_next _ _ _

/-- Everything a CMD write can do (10_state.md R24): nothing, one fault, or the effect of the command its word encodes. -/
theorem writeCmd_cases {w : Word} {s t : State} (h : writeCmd w s = .next t) :
    t = s ∨
    (s.fault = 0 ∧ ∃ c, t = s.raiseFault c) ∨
    (s.fault = 0 ∧ ∃ i, decode w = .command i ∧ firstFault (checksOf i s) = none ∧ t = effectOf i s) := by
  unfold writeCmd at h
  split at h
  next i hi =>
    rcases exec_cases h with ⟨_, rfl⟩ | ⟨hf, c, _, rfl⟩ | ⟨hf, hc, rfl⟩
    · exact .inl rfl
    · exact .inr (.inl ⟨hf, c, rfl⟩)
    · exact .inr (.inr ⟨hf, i, hi, hc, rfl⟩)
  next =>
    rcases runCommand_cases h with ⟨_, rfl⟩ | ⟨hf, c, _, rfl⟩ | ⟨_, _, rfl⟩
    · exact .inl rfl
    · exact .inr (.inl ⟨hf, c, rfl⟩)
    · exact .inl rfl

/-- A write of any register but CMD touches none of the core's own state. -/
theorem writeReg_frame {r : WindowReg} {v : Word} {s t : State} (hr : r ≠ .cmd) (h : writeReg r v s = .next t) :
    t.g0 = s.g0 ∧ t.result = s.result ∧ t.found = s.found ∧ t.fault = s.fault ∧ t.bm = s.bm := by
  cases r with
  | cmd => exact absurd rfl hr
  | arg0 | arg1 | arg2 | arg3 | result | status | reserved =>
    simp only [writeReg] at h
    cases h
    exact ⟨rfl, rfl, rfl, rfl, rfl⟩

/-- A register write never stops the machine. -/
theorem writeReg_next (r : WindowReg) (v : Word) (s : State) : ∃ t, writeReg r v s = .next t := by
  cases r with
  | cmd => exact writeCmd_next v s
  | arg0 | arg1 | arg2 | arg3 | result | status | reserved => exact ⟨_, rfl⟩

/-- Everything a step that answers a next state can do, said once. -/
theorem step_cases {s t : State} (h : step s = .next t) :
    (s.hostOps = [] ∧ t = s) ∨
    ∃ op later, s.hostOps = op :: later ∧
      ((∃ v, op = .write (.whole WindowReg.cmd.offset) v ∧ writeCmd v (s.setHostOps later) = .next t) ∨
       (∃ v r, r ≠ .cmd ∧ op = .write (.whole r.offset) v ∧ writeReg r v (s.setHostOps later) = .next t) ∨
       (∃ r, op = .read (.whole r.offset) ∧ t = (s.setHostOps later).logRead (.word (s.readReg r))) ∨
       (∃ a b, op = .memWrite a b ∧ a + b.length ≤ Config.bmSize ∧
          t = (s.setHostOps later).setBm (s.bm.writeBytes a b)) ∨
       (∃ a n, op = .memRead a n ∧ a + n ≤ Config.bmSize ∧
          t = (s.setHostOps later).logRead (.bytes (s.bm.readBytes a n))) ∨
       (op = .reset ∧ t = (s.setHostOps later).coreReset)) := by
  cases ho : s.hostOps with
  | nil =>
    rw [step_of_nil ho] at h
    cases h
    exact .inl ⟨rfl, rfl⟩
  | cons op later =>
    refine .inr ⟨op, later, rfl, ?_⟩
    rw [step_of_cons ho] at h
    cases op with
    | write a v =>
      simp only [hostOp, hostWrite] at h
      split at h
      next r hr =>
        rw [eq_whole_of_resolve hr]
        by_cases hc : r = .cmd
        · subst hc
          exact .inl ⟨v, rfl, h⟩
        · exact .inr (.inl ⟨v, r, hc, rfl, h⟩)
      next => cases h
    | read a =>
      simp only [hostOp, hostRead] at h
      split at h
      next r hr =>
        cases h
        rw [eq_whole_of_resolve hr]
        exact .inr (.inr (.inl ⟨r, rfl, by cases r <;> rfl⟩))
      next => cases h
    | memWrite a b =>
      simp only [hostOp, hostMemWrite] at h
      split at h
      next hl =>
        cases h
        exact .inr (.inr (.inr (.inl ⟨a, b, rfl, hl, rfl⟩)))
      next => cases h
    | memRead a n =>
      simp only [hostOp, hostMemRead] at h
      split at h
      next hl =>
        cases h
        exact .inr (.inr (.inr (.inr (.inl ⟨a, n, rfl, hl, rfl⟩))))
      next => cases h
    | reset =>
      simp only [hostOp] at h
      injection h with h
      exact .inr (.inr (.inr (.inr (.inr ⟨rfl, h.symm⟩))))

end Sys2Proof.Machine
end

