-- ==== Sys2Proof/Laws/Work.lean ====
section
/-! SUPPORT. Counting twists and candidates (70_reset_and_hazards.md R111). -/

namespace Sys2Proof.Machine

@[simp] theorem twistsIn_zero (g : Generator) : g.twistsIn 0 = 0 := rfl

/-- One more extraction twists when it finds the cursor at N (40_generator.md R63). -/
theorem twistsIn_succ (g : Generator) (k : Nat) :
    g.twistsIn (k + 1) = g.twistsIn k + if (g.advance k).idx.val = Config.N then 1 else 0 := by
  simp only [Generator.twistsIn, List.range_succ, List.filter_append, List.length_append]
  congr 1
  by_cases h : (g.advance k).idx.val = Config.N <;> simp [h]

/-- A search that costs the same for every candidate costs that much for each one it examines. -/
theorem searchWork_const {feeder : Nat → Word} {isMatch : Word → Bool} {cost : Word → Work} {c : Work}
    (h : ∀ k, cost (feeder k) = c) (k count : Nat) :
    searchWork feeder isMatch cost k count =
      ⟨examined feeder isMatch k count * c.inits, examined feeder isMatch k count * c.twists,
        examined feeder isMatch k count * c.tempers, examined feeder isMatch k count * c.bmRead,
        examined feeder isMatch k count * c.bmWritten⟩ := by
  induction count generalizing k with
  | zero => simp [searchWork, examined]
  | succ n ih =>
    simp only [searchWork, examined]
    split
    · simp [h]
    · rw [ih, h]
      simp only [Work.add, Nat.add_mul, Nat.one_mul, Nat.add_comm]

end Sys2Proof.Machine
end

