-- ==== Sys2Proof/Tests/Slice0.lean ====
section
/-! SUPPORT. Small tests, each one step on a small state, with the expected value from spec/95_test_vectors.md or a rule; the
smoke tests of WellFormed; and, for every statement with hypotheses, a state that meets them. -/

namespace Sys2Proof.Tests

-- One theorem at a time: each checked by the kernel, they would otherwise run side by side, a thread each.
set_option Elab.async false

open Sys2Proof.Machine

/-! ## Helpers -/

/-- Does the outcome answer a next state with this property? -/
def onNext (o : Host.Outcome State Fault Refusal) (p : State → Bool) : Bool :=
  match o with
  | .next t    => p t
  | .fault _   => false
  | .refused _ => false

/-- The refusal of an outcome, if it is one. -/
def refusalOf (o : Host.Outcome State Fault Refusal) : Option Refusal :=
  match o with
  | .next _      => none
  | .fault _     => none
  | .refused why => some why

/-- The reset state with these ARG registers. -/
def withArgs (a b c d : Word) : State := { State.reset with arg0 := a, arg1 := b, arg2 := c, arg3 := d }

/-- The same, with G0 freshly seeded with 0. -/
def seeded (a b c d : Word) : State := { withArgs a b c d with g0 := .fresh 0 }

/-- The same, faulted with code 2. -/
def faulted : State := { State.reset with fault := 2 }

/-! ## Decoding: the words of 30_encoding.md R49, bit by bit -/

theorem test_decode_seed : decode 0b00000000000000000000000000000001 = .command .seed := by decide
theorem test_decode_extract : decode 0b00000000000000000000000000000010 = .command .extract := by decide
theorem test_decode_crypt : decode 0b00000000000000000000000000000011 = .command .crypt := by decide
theorem test_decode_gentoken : decode 0b00000000000000000000000000000100 = .command .gentoken := by decide
theorem test_decode_validate : decode 0b00000000000000000000000000000101 = .command .validate := by decide
theorem test_decode_brute : decode 0b00000000000000000000000000000110 = .command .brute := by decide

/-- L2-DE-1, L2-DE-2, L2-DE-5 and L2-DE-3, L2-DE-4. -/
theorem test_decode_illegal :
    decode 0x00 = .illegal .noSuchOpcode ∧ decode 0x07 = .illegal .noSuchOpcode ∧ decode 0xFF = .illegal .noSuchOpcode ∧
    decode 0x101 = .illegal .reservedBitSet ∧ decode 0xFFFFFFFF = .illegal .reservedBitSet := by decide

theorem test_decodeTableWord : decodeTableWord 32 6 = some .brute ∧ decodeTableWord 32 7 = none := by decide

/-! ## WellFormed: each check refuses an ill-formed term -/

theorem test_wellFormed_narrow : (HostOp.write ⟨0x04, 2⟩ 0).wellFormed = false := by decide
theorem test_wellFormed_misaligned : (HostOp.read ⟨0x06, 4⟩).wellFormed = false := by decide
theorem test_wellFormed_outside : (HostOp.read ⟨0x20, 4⟩).wellFormed = false := by decide
theorem test_wellFormed_memWrite_past_top : (HostOp.memWrite 0xFFFFFFFF [1, 2]).wellFormed = false := by decide
theorem test_wellFormed_memRead_past_top : (HostOp.memRead 0xFFFFFFFF 2).wellFormed = false := by decide
theorem test_wellFormed_good : (HostOp.read ⟨0x1C, 4⟩).wellFormed = true ∧ (HostOp.memRead 0xFFFFFFFF 1).wellFormed = true ∧
    HostOp.reset.wellFormed = true ∧ Instr.brute.wellFormed = true := by decide

/-! ## The generator's functions (95_test_vectors.md L2-IN, L2-TW, L2-TE) -/

/-- L2-IN-1, L2-IN-2. -/
theorem test_init : wordAt (init 0) 2 = 0x6C078967 ∧ wordAt (init 1) 3 = 0xB9523B81 := by decide +kernel

/-- L2-IN-3: the product wraps. -/
theorem test_init_wraps : wordAt (init 0xFFFFFFFF) 1 = 0x4FE1DA6D := by decide +kernel

/-- L2-TW-1. -/
theorem test_twist : wordAt (twist (init 0)) 0 = 0x91A10D12 ∧ wordAt (twist (init 0)) 2 = 0x6FF72554 := by decide +kernel

/-- L2-TW-3: word 227 is made from the NEW word 0 (L2-TW-1) and the old words 227 and 228. -/
theorem test_twist_in_place :
    (0x91A10D12 : Word) ^^^ twistMix (wordAt (init 0) 227) (wordAt (init 0) 228) = 0x00D781B0 := by decide +kernel

/-- L2-TE-5, L2-TE-6. -/
theorem test_temper : temper 0x12345678 = 0x2B7E4A2D ∧ temper 0x9908B0DF = 0xFE97EAEC := by decide

/-! ## The commands, one step each -/

/-- L2-SE-11: SEED 0. -/
theorem test_seed : onNext (exec .seed (withArgs 0 9 9 9)) (fun t => t.statusWord == 0x00000002 && t.g0.idx.val == 624 &&
    t.result == 0 && wordAt t.g0.mt 2 == 0x6C078967) = true := by decide +kernel

/-- L1-5: the first word of seed 0. -/
theorem test_extract : onNext (exec .extract (seeded 0 0 0 0)) (fun t => t.result == 2357136044 && t.g0.idx.val == 1) = true := by
  decide +kernel

/-- L2-SE-12: EXTRACT after reset. -/
theorem test_extract_unseeded : onNext (exec .extract State.reset) (fun t => t.statusWord == 0x00000200 && t.result == 0) = true := by
  decide +kernel

/-- L2-CR-4: partial overlap, output one above input (the first two bytes). -/
theorem test_crypt_overlap : onNext (exec .crypt { seeded 0x100 0x101 2 2 with bm := ⟨[(0x100, 0x48), (0x101, 0x45)]⟩ })
    (fun t => t.bm.readBytes 0x100 3 == [0x48, 0xE4, 0xCB] && t.g0.idx.val == 2) = true := by decide +kernel

/-- L2-CR-8c: OUTBUF_SHORT before RANGE. -/
theorem test_crypt_priority : onNext (exec .crypt (seeded 0xFFFFFFFF 0x200 5 4)) (fun t => t.statusWord == 0x00000302) = true := by
  decide +kernel

/-- L2-GT-1, its first bytes and its last. -/
theorem test_gentoken : onNext (exec .gentoken (withArgs 0 0x400 7 7)) (fun t => t.bm.readBytes 0x400 3 == [0xAC, 0x2F, 0x75] &&
    t.bm.read 0x41F == 0x94 && t.bm.read 0x420 == 0 && t.statusWord == 0) = true := by decide +kernel

/-- L2-GT-8: the token would end past the top. -/
theorem test_gentoken_range : onNext (exec .gentoken (withArgs 5 0xFFFFFFE1 0 0)) (fun t => t.fault == 6) = true := by decide +kernel

/-- L2-VA-10: MAXAGE_INVALID before RANGE. -/
theorem test_validate_priority : onNext (exec .validate (withArgs 0xFFFFFFF0 32 0 0)) (fun t => t.fault == 4) = true := by
  decide +kernel

/-- L2-VA-5: a length other than 32 never matches, and a completed no-match clears FOUND (L2-VA-12). -/
theorem test_validate_length : onNext (exec .validate { withArgs 0x400 31 1 1700000000 with found := true, result := 5 })
    (fun t => !t.found && t.result == 0 && t.fault == 0) = true := by decide +kernel

/-- L2-BR-7: the whole plaintext "AB" is known; seed 3. -/
theorem test_brute : onNext (exec .brute { withArgs 0x500 2 0x600 2 with
      bm := ⟨[(0x500, 0x2B), (0x501, 0xDA), (0x600, 0x41), (0x601, 0x42)]⟩ })
    (fun t => t.found && t.result == 3) = true := by decide +kernel

/-- L2-BR-11: SUFFIX_LONG before RANGE. -/
theorem test_brute_priority : onNext (exec .brute (withArgs 0xFFFFFFFF 2 0x600 3)) (fun t => t.fault == 5) = true := by
  decide +kernel

/-! ## The host's side, one step each -/

/-- L2-DE-6: SEED is ignored on a faulted core. -/
theorem test_faulted_ignores_seed : onNext (step (faulted.withCmdWrite 1)) (fun t => t.statusWord == 0x00000200) = true := by
  decide +kernel

/-- L2-DE-7: STATUS ignores writes. -/
theorem test_status_write_ignored : onNext (step (State.reset.withNext (.write ⟨0x18, 4⟩ 0xFFFFFFFF))) (fun t => t.statusWord == 0) = true := by
  decide +kernel

/-- Each way out of the interface is refused by its own name (10_state.md R29; log 7). -/
theorem test_refusals :
    refusalOf (step (State.reset.withNext (.read ⟨0x04, 1⟩))) = some .notWholeWord ∧
    refusalOf (step (State.reset.withNext (.read ⟨0x02, 4⟩))) = some .misaligned ∧
    refusalOf (step (State.reset.withNext (.read ⟨0x20, 4⟩))) = some .outOfWindow := by decide +kernel

/-- `withFetchWord` makes the next step run the word: SEED after reset. -/
theorem test_withFetchWord : onNext (step (State.reset.withFetchWord 32 1)) (fun t => t.g0.seeded && t.hostOps == []) = true := by
  decide +kernel

/-- 30_encoding.md R58: `SEED 5489`. -/
theorem test_assemble_seed :
    assemble [.seed 5489] = [.write ⟨0x04, 4⟩ 0x00001571, .write ⟨0x00, 4⟩ 0x00000001] := by decide

/-- 95_test_vectors.md P3: the encoding of `VALIDATE 0x400, 32, 3, 1700000000`. -/
theorem test_assemble_validate : assemble [.validate 0x400 32 3 1700000000] =
    [.write ⟨0x04, 4⟩ 0x400, .write ⟨0x08, 4⟩ 0x20, .write ⟨0x0C, 4⟩ 3, .write ⟨0x10, 4⟩ 0x6553F100,
      .write ⟨0x00, 4⟩ 5] := by decide

/-- 56: a negative max age is written as its two's-complement pattern (L2-VA-8). -/
theorem test_assemble_negative_age : (AsmLine.validate 0 0 (-1) 0).expand[2]? = some (.write ⟨0x0C, 4⟩ 0xFFFFFFFF) := by decide

/-- The assembler's checks refuse a register with no name, a max age with no 32-bit pattern, a legal word as ILLEGAL. -/
theorem test_asm_wellFormed : (AsmLine.wr .reserved 0).wellFormed = false ∧ (AsmLine.rd .reserved).wellFormed = false ∧
    (AsmLine.validate 0 0 (2 ^ 32) 0).wellFormed = false ∧ (AsmLine.illegal 6).wellFormed = false ∧
    (AsmLine.memw 0xFFFFFFFF [1, 2]).wellFormed = false ∧ (AsmLine.memr 0xFFFFFFFF 2).wellFormed = false ∧
    (AsmLine.illegal 7).wellFormed = true := by decide

/-! ## Witnesses: states that meet the statements' hypotheses -/

/-- A CRYPT of the one byte at 0 to 0x100 under a fresh seed 0. -/
def one : State := seeded 0 0x100 1 1

/-- What it leaves. -/
def oneDone : State := effectOf .crypt one

theorem witness_crypt_ready : one.CryptReady ∧ one.CryptReadsAhead :=
  ⟨⟨by decide, by decide, by decide, by decide, by decide⟩, .inr (by decide)⟩

/-- CryptReady at the top of buffer memory and with nothing to do. -/
theorem witness_crypt_ready_bounds : (seeded 0xFFFFFFFF 0xFFFFFFFF 1 1).CryptReady ∧ (seeded 5 5 0 0).CryptReady :=
  ⟨⟨by decide, by decide, by decide, by decide, by decide⟩, ⟨by decide, by decide, by decide, by decide, by decide⟩⟩

theorem exec_one : exec .crypt one = .next oneDone := by
  rw [exec_eq]
  exact runCommand_effect (by decide) (by decide) _

theorem witness_IdleCoreHoldsItsState : State.reset.hostOps = [] := rfl

theorem witness_StepRunsTheDecodedCommand : decode 3 = .command .crypt ∧ decodeTableWord 32 3 = some .crypt := by decide

theorem witness_WellBehavedHostIsNeverStopped :
    State.HostWellBehaved { State.reset with hostOps := [.read ⟨0x18, 4⟩, .memRead 0 (2 ^ 32), .reset] } := by
  unfold State.HostWellBehaved
  decide

theorem witness_DecodeIsTheOpcodeMap :
    ((0x100 : Word).extractLsb' 8 24 ≠ 0 ∧ (0xFFFFFFFF : Word).extractLsb' 8 24 ≠ 0) ∧
    ((6 : Word).extractLsb' 8 24 = 0 ∧ (6 : Word).extractLsb' 0 8 = 0x06) ∧
    (0x00 : Word).extractLsb' 0 8 = 0x00 ∧ 0x07 ≤ (0x07 : Word).extractLsb' 0 8 ∧ 0x07 ≤ (0xFF : Word).extractLsb' 0 8 ∧
    decode 0 = .illegal .noSuchOpcode ∧ State.reset.fault = 0 := by decide

theorem witness_PseudoInstructionsExpand : (AsmLine.illegal 0).wellFormed = true := by decide

theorem witness_OnlyInterfaceAccessesAreCarriedOut :
    (WindowAccess.mk 0x1C 4).bytes = 4 ∧ 0x1C % 4 = 0 ∧ 0x1C ≤ 0x1C ∧ ¬(0x20 ≤ 0x1C) ∧ ¬(0x1D % 4 = 0) := by decide

theorem witness_ReservedOffset : (0x20 : Nat) ∉ [0x00, 0x04, 0x08, 0x0C, 0x10, 0x14, 0x18, 0x1C] ∧
    (0x02 : Nat) ∉ [0x00, 0x04, 0x08, 0x0C, 0x10, 0x14, 0x18, 0x1C] := by decide

theorem witness_ArgRegistersAreTheHosts : ∃ t, step (one.withCmdWrite 3) = .next t :=
  ⟨oneDone, by rw [step_withCmdWrite]; exact exec_one⟩

/-- One state for each clause, at the boundary of its range. -/
theorem witness_FaultsByPriority :
    State.reset.fault = 0 ∧ (∀ i, decode 7 ≠ .command i) ∧ State.reset.g0.seeded = false ∧
    ((seeded 0 0 1 0).g0.seeded = true ∧ (seeded 0 0 1 0).arg3 < (seeded 0 0 1 0).arg2) ∧
    ((seeded 0xFFFFFFFF 0 2 2).arg2 ≤ (seeded 0xFFFFFFFF 0 2 2).arg3 ∧
      2 ^ 32 < (seeded 0xFFFFFFFF 0 2 2).arg0.toNat + (seeded 0xFFFFFFFF 0 2 2).arg2.toNat) ∧
    2 ^ 32 < (withArgs 0 0xFFFFFFE1 0 0).arg1.toNat + 32 ∧
    ((withArgs 0 0 0 0).arg2.toInt < 1 ∧ (withArgs 0 0 0x80000000 0).arg2.toInt < 1) ∧
    (1 ≤ (withArgs 0xFFFFFFFF 2 1 0).arg2.toInt ∧
      2 ^ 32 < (withArgs 0xFFFFFFFF 2 1 0).arg0.toNat + (withArgs 0xFFFFFFFF 2 1 0).arg1.toNat) ∧
    (withArgs 0 3 0 4).arg1 < (withArgs 0 3 0 4).arg3 ∧
    ((withArgs 0 1 0xFFFFFFFF 1).arg3 ≤ (withArgs 0 1 0xFFFFFFFF 1).arg1 ∧
      2 ^ 32 < (withArgs 0 2 0xFFFFFFFF 2).arg2.toNat + (withArgs 0 2 0xFFFFFFFF 2).arg3.toNat) ∧
    exec .extract faulted = .next faulted :=
  ⟨rfl, fun i => by cases i <;> decide, rfl, ⟨rfl, by decide⟩, ⟨by decide, by decide⟩, by decide, ⟨by decide, by decide⟩,
    ⟨by decide, by decide⟩, by decide, ⟨by decide, by decide⟩, by rw [exec_eq]; exact runCommand_faulted (by decide) _ _⟩

theorem witness_FaultChangesOnlyTheCode :
    ∃ t, step (State.reset.withCmdWrite 2) = .next t ∧ t.fault ≠ State.reset.fault := by
  refine ⟨State.reset.raiseFault .unseeded, ?_, by decide⟩
  rw [step_withCmdWrite, show writeCmd 2 State.reset = exec .extract State.reset from rfl, exec_eq]
  exact runCommand_fault (by decide) (by decide) _

theorem witness_FaultLastsUntilReset : faulted.fault ≠ 0 ∧
    (∃ t, (faulted.withNext (.read ⟨0x18, 4⟩)).hostOps.head? ≠ some .reset ∧ step (faulted.withNext (.read ⟨0x18, 4⟩)) = .next t) ∧
    ∃ t, (faulted.withNext .reset).hostOps.head? = some .reset ∧ step (faulted.withNext .reset) = .next t :=
  ⟨by decide, ⟨_, by decide, by rw [step_withNext]; rfl⟩, faulted.coreReset, by decide, by rw [step_withNext]; rfl⟩

theorem witness_SeedInstallsTheRecurrence : (withArgs 0xFFFFFFFF 0 0 0).fault = 0 := rfl

theorem witness_ExtractReturnsTheNextWord :
    (one.fault = 0 ∧ one.g0.seeded = true ∧ one.g0.idx.val = 624) ∧
    (let g : Generator := ⟨init 0, 623, true⟩; g.idx.val < 624) ∧ State.reset.g0.seeded = false :=
  ⟨⟨rfl, rfl, rfl⟩, by decide, rfl⟩

theorem witness_SameSeedSameWords : ∃ t u,
    exec .seed (withArgs 5 0 0 0) = .next t ∧ exec .seed (seeded 5 1 1 1) = .next u ∧ (withArgs 5 0 0 0).arg0 = (seeded 5 1 1 1).arg0 ∧
    (∃ t', exec .extract (seeded 0 0 0 0) = .next t') ∧ (seeded 0 0 0 0).g0 = (seeded 5 1 1 1).g0 :=
  ⟨_, _, by rw [exec_eq]; exact runCommand_effect (by decide) (by decide) _,
    by rw [exec_eq]; exact runCommand_effect (by decide) (by decide) _, rfl, exec_next _ _, rfl⟩

/-- A second pass over what the first pass wrote, from 0x100 to 0x200. -/
def oneBack : State := { oneDone with g0 := .fresh 0, arg0 := 0x100, arg1 := 0x200 }

theorem witness_CryptIsAnInvolution :
    one.CryptReady ∧ oneBack.CryptReady ∧ one.CryptReadsAhead ∧ oneBack.CryptReadsAhead ∧ one.g0 = .fresh 0 ∧
    oneBack.g0 = .fresh 0 ∧ oneBack.arg2 = one.arg2 ∧ exec .crypt one = .next oneDone ∧
    ∀ j < one.arg2.toNat, oneBack.bm.read (oneBack.arg0.toNat + j) = oneDone.bm.read (one.arg1.toNat + j) :=
  ⟨witness_crypt_ready.1, ⟨by decide, by decide, by decide, by decide, by decide⟩, witness_crypt_ready.2, .inr (by decide),
    rfl, rfl, rfl, exec_one, fun _ _ => rfl⟩

/-- A further CRYPT that goes on where the first stopped. -/
def oneMore : State := { oneDone with arg0 := 0x100, arg1 := 0x200 }

theorem witness_CryptContinuesTheKeystream :
    one.CryptReady ∧ one.CryptReadsAhead ∧ one.g0 = .fresh 0 ∧ exec .crypt one = .next oneDone ∧ oneMore.g0 = oneDone.g0 ∧
    oneMore.CryptReady ∧ oneMore.CryptReadsAhead ∧ oneMore.fault = 0 :=
  ⟨witness_crypt_ready.1, witness_crypt_ready.2, rfl, exec_one, rfl,
    ⟨by decide, by decide +kernel, by decide, by decide, by decide⟩, .inr (by decide), by decide⟩

theorem witness_GentokenWritesTheToken :
    (withArgs 5 0xFFFFFFE0 0 0).arg1.toNat + 32 ≤ 2 ^ 32 ∧ 2 ^ 32 < (withArgs 5 0xFFFFFFE1 0 0).arg1.toNat + 32 := by decide

/-- A token of seed 7 in buffer memory, and VALIDATE asked for it with NOW = 7 + d. -/
def tokenState (now : Word) (age : Word) : State :=
  { withArgs 0x400 32 age now with bm := (⟨[]⟩ : Memory).writeBytes 0x400 (token 7) }

theorem tokenState_bytes (now age : Word) (j : Nat) (h : j < 32) :
    (tokenState now age).bm.read (0x400 + j) = (Generator.fresh 7).keyByte j := by
  have hj : j < (token 7).length := by simpa [Config.tokenLen] using h
  exact (Memory.read_writeBytes_inside hj).trans (getElem_token hj)

theorem witness_ValidateReady : (tokenState 9 3).ValidateReady ∧ (tokenState 9 0x7FFFFFFF).ValidateReady ∧
    (withArgs 0xFFFFFFFF 1 1 0).ValidateReady :=
  ⟨⟨by decide, by decide, by decide⟩, ⟨by decide, by decide, by decide⟩, ⟨by decide, by decide, by decide⟩⟩

/-- A first match (k = 0), and a state in which no candidate matches: the token's length is 31. -/
theorem witness_ValidateReportsTheFirstMatch :
    ((tokenState 7 1).ValidateReady ∧ ((0 : Nat) : Int) < (tokenState 7 1).arg2.toInt ∧
      (tokenState 7 1).TokenMatch ((tokenState 7 1).timestamp 0) ∧ ∀ i < 0, ¬(tokenState 7 1).TokenMatch ((tokenState 7 1).timestamp i)) ∧
    ((withArgs 0x400 31 1 0).ValidateReady ∧
      ∀ k : Nat, (k : Int) < (withArgs 0x400 31 1 0).arg2.toInt → ¬(withArgs 0x400 31 1 0).TokenMatch ((withArgs 0x400 31 1 0).timestamp k)) :=
  ⟨⟨⟨by decide, by decide, by decide⟩, by decide, ⟨rfl, fun j hj => (tokenState_bytes 7 1 j hj).symm⟩, by simp⟩,
    ⟨by decide, by decide, by decide⟩, fun _ _ h => absurd h.1 (by decide)⟩

/-- The token was made d = 2 seconds before NOW, and the window holds 3. -/
theorem witness_ValidateFindsATokenInTheWindow :
    (tokenState 9 3).ValidateReady ∧ ((2 : Nat) : Int) < (tokenState 9 3).arg2.toInt ∧ (tokenState 9 3).arg1 = 32 ∧
    ∀ j < 32, (tokenState 9 3).bm.read ((tokenState 9 3).arg0.toNat + j) =
      (Generator.fresh ((tokenState 9 3).timestamp 2)).keyByte j :=
  ⟨⟨by decide, by decide, by decide⟩, by decide, rfl, fun j hj => tokenState_bytes 9 3 j hj⟩

/-- BRUTE ready at its bounds, an empty suffix among them. -/
theorem witness_BruteReady : (withArgs 0xFFFFFFFF 1 0xFFFFFFFF 1).BruteReady ∧ (withArgs 5 0 5 0).BruteReady :=
  ⟨⟨by decide, by decide, by decide, by decide⟩, ⟨by decide, by decide, by decide, by decide⟩⟩

/-- The lowest seed matches (k = 0): the ciphertext byte AC is 0 under seed 0 (L2-GT-1). -/
theorem witness_BruteReportsTheLowestSeed :
    let s : State := { withArgs 0 1 1 1 with bm := ⟨[(0, 0xAC)]⟩ }
    s.BruteReady ∧ s.SuffixMatch (BitVec.ofNat 32 0) ∧ ∀ i < 0, ¬s.SuffixMatch (BitVec.ofNat 32 i) := by
  refine ⟨⟨by decide, by decide, by decide, by decide⟩, ?_, by simp⟩
  unfold State.SuffixMatch
  decide +kernel

/-- The other clause's case, a state in which no seed matches, is 95_test_vectors.md L2-BR-5: a full search, too long for a
test here. Its shape is met by the search's own lemma. -/
theorem witness_search_without_match : searchFrom bruteFeeder (fun _ => false) 0 65536 = none :=
  (searchFrom_eq_none _ _).mpr fun _ _ => rfl

/-- BRUTE over the output of `one`, its one plaintext byte known. -/
def oneKnown : State := { oneDone with arg0 := 0x100, arg1 := 1, arg2 := 0, arg3 := 1 }

theorem witness_BruteRecoversTheSeed :
    one.CryptReady ∧ one.CryptReadsAhead ∧ one.g0 = .fresh ((0 : BitVec 16).zeroExtend 32) ∧ exec .crypt one = .next oneDone ∧
    oneKnown.BruteReady ∧ oneKnown.arg1 = one.arg2 ∧
    (∀ j < one.arg2.toNat, oneKnown.bm.read (oneKnown.arg0.toNat + j) = oneDone.bm.read (one.arg1.toNat + j)) ∧
    (∀ j < oneKnown.arg3.toNat, oneKnown.bm.read (oneKnown.arg2.toNat + j) =
      one.bm.read (one.arg0.toNat + (one.arg2.toNat - oneKnown.arg3.toNat + j))) :=
  ⟨witness_crypt_ready.1, witness_crypt_ready.2, rfl, exec_one, ⟨by decide, by decide, by decide, by decide⟩, rfl,
    fun _ _ => rfl, by decide +kernel⟩

theorem witness_SearchCommandsAreIsolatedFromG0 (i : Instr) : ∃ t, exec i one = .next t := exec_next i one

theorem witness_OnlySeedSetsSeeded :
    (∃ t, step (State.reset.withCmdWrite 1) = .next t ∧ State.reset.g0.seeded = false ∧ t.g0.seeded = true) ∧
    (∃ t, step (one.withNext .reset) = .next t ∧ one.g0.seeded = true ∧ t.g0.seeded = false) := by
  refine ⟨⟨effectOf .seed State.reset, ?_, rfl, rfl⟩, ⟨one.coreReset, by rw [step_withNext]; rfl, rfl, ?_⟩⟩
  · rw [step_withCmdWrite, show writeCmd 1 State.reset = exec .seed State.reset from rfl, exec_eq]
    exact runCommand_effect (by decide) (by decide) _
  · rw [State.coreReset_g0]
    rfl

/-- BRUTE with an empty suffix changes FOUND, and RESULT if it held another value. -/
theorem witness_WhoWritesResultAndFound :
    let s : State := { State.reset with result := 9 }
    ∃ t, step (s.withCmdWrite 6) = .next t ∧ (s.withCmdWrite 6).hostOps.head? ≠ some .reset ∧ t.result ≠ s.result ∧ t.found ≠ s.found := by
  intro s
  refine ⟨effectOf .brute s, ?_, by decide, by decide +kernel, by decide +kernel⟩
  rw [step_withCmdWrite, show writeCmd 6 s = exec .brute s from rfl, exec_eq]
  exact runCommand_effect (by decide) (by decide) _

/-- Addresses just outside what CRYPT writes and reads in `one`. -/
theorem witness_CommandsReadAndWriteOnlyTheirBuffers :
    ¬State.Writes .crypt one 0x101 ∧ State.Writes .crypt one 0x100 ∧ ¬State.Reads .crypt one 1 ∧ State.Reads .crypt one 0 ∧
    exec .crypt one = .next oneDone := by
  refine ⟨?_, ?_, ?_, ?_, exec_one⟩ <;> simp only [State.Writes, State.Reads] <;> decide

theorem witness_HostMemoryAccesses : 0xFFFFFFFE + ([1, 2] : List Byte).length ≤ 2 ^ 32 ∧
    2 ^ 32 < 0xFFFFFFFF + ([1, 2] : List Byte).length := by decide

theorem witness_StepKeepsTheInvariant : one.Inv ∧ ∃ t, step (one.withCmdWrite 3) = .next t :=
  ⟨⟨Memory.wf_empty, by decide, fun _ => ⟨0, 0, rfl⟩, nofun⟩, witness_ArgRegistersAreTheHosts⟩

theorem witness_UnseededVectorIsUnobservable :
    State.reset.SameButUnseededMt { State.reset with g0 := ⟨init 5, Fin.last 624, false⟩ } := ⟨rfl, nofun⟩

theorem witness_TwistCadence : 1 ≤ 1 ∧ 1 ≤ 624 ∧ 1 ≤ 625 := by decide

theorem witness_TwistIsSequentialInPlace : 226 < 227 ∧ 227 ≤ 227 ∧ 622 < 623 := by decide

theorem witness_EmptySuffixFindsSeedZero : (withArgs 5 0 5 0).BruteReady ∧ (withArgs 5 0 5 0).arg3 = 0 :=
  ⟨witness_BruteReady.2, rfl⟩

/-- Every command answers a next state in `one`: the premise of UnusedArgsAreIgnored and CommandsLeaveTheHostsSide. -/
theorem witness_UnusedArgsAreIgnored : (∃ t, exec .seed one = .next t) ∧ (∃ t, exec .extract one = .next t) ∧
    ∃ t, exec .gentoken one = .next t := ⟨exec_next _ _, exec_next _ _, exec_next _ _⟩

theorem witness_OperationCounts : (withArgs 0 32 1 0).arg1 = 32 ∧ (withArgs 0 31 1 0).arg1 ≠ 32 := by decide

end Sys2Proof.Tests
end

/-! The proofs of the statements about state, register window and host (10_state.md).

First the layer of rules: what one host operation answers, what a command leaves of the host's side, and what a step can do to
the core's own state. Then the state vector of an unseeded G0, and the statements themselves. -/

namespace Sys2Proof.Machine

/-! ## The core's side, and the host's side: what no command writes -/

/-- Two states agree on the core's own registers and G0. -/
structure State.SameCore (s t : State) : Prop where
  g0     : t.g0 = s.g0
  result : t.result = s.result
  found  : t.found = s.found
  fault  : t.fault = s.fault

/-- Two states agree on everything no command writes: the ARG registers (10_state.md R25) and the model's own fields. -/
structure State.SameHostsSide (s t : State) : Prop where
  arg0       : t.arg0 = s.arg0
  arg1       : t.arg1 = s.arg1
  arg2       : t.arg2 = s.arg2
  arg3       : t.arg3 = s.arg3
  hostOps    : t.hostOps = s.hostOps
  hostReads  : t.hostReads = s.hostReads
  resetDraws : t.resetDraws = s.resetDraws

theorem State.SameHostsSide.refl (s : State) : s.SameHostsSide s := ⟨rfl, rfl, rfl, rfl, rfl, rfl, rfl⟩

theorem raiseFault_hostsSide (s : State) (c : FaultCode) : s.SameHostsSide (s.raiseFault c) := by
  constructor <;> simp

/-- GENTOKEN's effect is a write of buffer memory. Stated for some memory, so that no proof about another field makes the
kernel compute the token. -/
theorem effectOf_gentoken_eq (s : State) : ∃ m, effectOf .gentoken s = s.setBm m := ⟨_, rfl⟩

theorem effectOf_gentoken_core (s : State) : s.SameCore (effectOf .gentoken s) := by
  obtain ⟨m, hm⟩ := effectOf_gentoken_eq s
  rw [hm]
  constructor <;> rfl

theorem effectOf_hostsSide (i : Instr) (s : State) : s.SameHostsSide (effectOf i s) := by
  cases i with
  | seed | extract | crypt | validate | brute => constructor <;> rfl
  | gentoken =>
    obtain ⟨m, hm⟩ := effectOf_gentoken_eq s
    rw [hm]
    constructor <;> rfl

theorem exec_hostsSide {i : Instr} {s t : State} (h : exec i s = .next t) : s.SameHostsSide t := by
  rcases exec_cases h with ⟨_, rfl⟩ | ⟨_, c, _, rfl⟩ | ⟨_, _, rfl⟩
  · exact .refl _
  · exact raiseFault_hostsSide s c
  · exact effectOf_hostsSide i s

theorem writeCmd_hostsSide {w : Word} {s t : State} (h : writeCmd w s = .next t) : s.SameHostsSide t := by
  rcases writeCmd_cases h with rfl | ⟨_, c, rfl⟩ | ⟨_, i, _, _, rfl⟩
  · exact .refl _
  · exact raiseFault_hostsSide s c
  · exact effectOf_hostsSide i s

/-! ## One host operation -/

theorem writeCmd_of_decode {w : Word} {i : Instr} (h : decode w = .command i) (s : State) : writeCmd w s = exec i s := by
  simp only [writeCmd, h]

theorem decode_of_decodeTableWord {nbits w : Nat} {i : Instr} (h : decodeTableWord nbits w = some i) :
    decode (tableWord nbits w) = .command i := by
  unfold decodeTableWord at h
  split at h
  next j hj =>
    rw [hj, Option.some.inj h]
  next => cases h

theorem eq_opcode_of_commandOfOpcode {opc : Byte} {i : Instr} (h : commandOfOpcode opc = some i) : opc = opcode i := by
  unfold commandOfOpcode at h
  split at h
  case h_7 => cases h
  all_goals
    next hopc =>
      cases h
      exact BitVec.eq_of_toNat_eq hopc

/-- A word with a zero reserved field is its opcode field, zero-extended (30_encoding.md R49). -/
theorem eq_zeroExtend_opcField {w : Word} (h : rsvField w = 0) : w = (opcField w).zeroExtend 32 := by
  have hrsv : w.toNat / 2 ^ 8 % 2 ^ 24 = 0 := by
    simpa [rsvField, BitVec.extractLsb'_toNat, Nat.shiftRight_eq_div_pow] using congrArg BitVec.toNat h
  apply BitVec.eq_of_toNat_eq
  simp only [opcField, BitVec.zeroExtend, BitVec.toNat_setWidth, BitVec.extractLsb'_toNat, Nat.shiftRight_zero]
  omega

/-- A word that decodes to a command is that command's encoding (30_encoding.md R59). -/
theorem eq_encode_of_decode {w : Word} {i : Instr} (h : decode w = .command i) : w = encode i := by
  unfold decode at h
  split at h
  case isFalse => cases h
  case isTrue hrsv =>
    split at h
    next j hj =>
      cases h
      rw [encode, ← eq_opcode_of_commandOfOpcode hj]
      exact eq_zeroExtend_opcField hrsv
    next => cases h

/-- A whole write at a register's offset writes that register (10_state.md R23). -/
theorem step_write_whole (s : State) (r : WindowReg) (v : Word) :
    step (s.withNext (.write (.whole r.offset) v)) = writeReg r v s := by
  simp only [step_withNext, hostOp, hostWrite, resolve_whole]

/-- A whole read at a register's offset returns that register to the host (10_state.md R23). -/
theorem step_read_whole (s : State) (r : WindowReg) :
    step (s.withNext (.read (.whole r.offset))) = .next (s.logRead (.word (s.readReg r))) := by
  simp only [step_withNext, hostOp, hostRead, resolve_whole]

theorem hostWrite_next {a : WindowAccess} (h : a.wellFormed = true) (v : Word) (s : State) :
    ∃ t, hostWrite a v s = .next t := by
  obtain ⟨r, hr⟩ := resolve_of_wellFormed h
  simpa only [hostWrite, hr] using writeReg_next r v s

theorem hostRead_next {a : WindowAccess} (h : a.wellFormed = true) (s : State) : ∃ t, hostRead a s = .next t := by
  obtain ⟨r, hr⟩ := resolve_of_wellFormed h
  exact ⟨s.logRead (.word (s.readReg r)), by simp only [hostRead, hr]⟩

theorem hostWrite_refused {a : WindowAccess} (h : ¬a.wellFormed = true) (v : Word) (s : State) :
    ∃ why, hostWrite a v s = .refused why := by
  obtain ⟨why, hr⟩ := resolve_of_not_wellFormed h
  exact ⟨why, by simp only [hostWrite, hr]⟩

theorem hostRead_refused {a : WindowAccess} (h : ¬a.wellFormed = true) (s : State) :
    ∃ why, hostRead a s = .refused why := by
  obtain ⟨why, hr⟩ := resolve_of_not_wellFormed h
  exact ⟨why, by simp only [hostRead, hr]⟩

/-- An operation of the interface never stops the machine (70_reset_and_hazards.md R110). -/
theorem hostOp_next {op : HostOp} (h : op.wellFormed = true) (s : State) : ∃ t, hostOp op s = .next t := by
  cases op with
  | write a v => exact hostWrite_next h v s
  | read a => exact hostRead_next h s
  | memWrite addr bytes => exact ⟨_, if_pos (of_decide_eq_true h)⟩
  | memRead addr len => exact ⟨_, if_pos (of_decide_eq_true h)⟩
  | reset => exact ⟨_, rfl⟩

/-! ## One step -/

theorem writeReg_hostOps {r : WindowReg} {v : Word} {s t : State} (h : writeReg r v s = .next t) :
    t.hostOps = s.hostOps := by
  cases r with
  | cmd => exact (writeCmd_hostsSide h).hostOps
  | arg0 | arg1 | arg2 | arg3 | result | status | reserved => cases h; rfl

/-- A step takes one operation, the oldest, from those pending (10_state.md R14). -/
theorem step_hostOps {s t : State} (h : step s = .next t) : t.hostOps = s.hostOps.tail := by
  rcases step_cases h with ⟨hnil, rfl⟩ | ⟨op, later, hcons, hop⟩
  · rw [hnil, List.tail_nil]
  · rw [hcons, List.tail_cons]
    rcases hop with ⟨v, _, hw⟩ | ⟨v, r, _, _, hw⟩ | ⟨r, _, rfl⟩ | ⟨a, b, _, _, rfl⟩ | ⟨a, n, _, _, rfl⟩ | ⟨_, rfl⟩
    · exact (writeCmd_hostsSide hw).hostOps
    · exact writeReg_hostOps hw
    all_goals rfl

/-- What a step can do to the core's own state: nothing; what a CMD write makes a core that is not faulted do (one fault, or
the effect of the command its word encodes); a reset. -/
theorem step_core_cases {s t : State} (h : step s = .next t) :
    s.SameCore t ∨
    (s.fault = 0 ∧ ∃ w later, s.hostOps = .write (.whole WindowReg.cmd.offset) w :: later ∧
      ((∃ c, t = (s.setHostOps later).raiseFault c) ∨
        ∃ i, decode w = .command i ∧ t = effectOf i (s.setHostOps later))) ∨
    (∃ later, s.hostOps = .reset :: later ∧ t = (s.setHostOps later).coreReset) := by
  rcases step_cases h with ⟨_, rfl⟩ | ⟨op, later, hcons, hop⟩
  · exact .inl ⟨rfl, rfl, rfl, rfl⟩
  · rcases hop with ⟨v, rfl, hw⟩ | ⟨v, r, hr, _, hw⟩ | ⟨r, _, rfl⟩ | ⟨a, b, _, _, rfl⟩ | ⟨a, n, _, _, rfl⟩ | ⟨rfl, rfl⟩
    · rcases writeCmd_cases hw with rfl | ⟨hf, c, rfl⟩ | ⟨hf, i, hi, _, rfl⟩
      · exact .inl ⟨rfl, rfl, rfl, rfl⟩
      · exact .inr (.inl ⟨hf, v, later, hcons, .inl ⟨c, rfl⟩⟩)
      · exact .inr (.inl ⟨hf, v, later, hcons, .inr ⟨i, hi, rfl⟩⟩)
    · obtain ⟨hg0, hresult, hfound, hfault, _⟩ := writeReg_frame hr hw
      exact .inl ⟨hg0, hresult, hfound, hfault⟩
    · exact .inl ⟨rfl, rfl, rfl, rfl⟩
    · exact .inl ⟨rfl, rfl, rfl, rfl⟩
    · exact .inl ⟨rfl, rfl, rfl, rfl⟩
    · exact .inr (.inr ⟨later, hcons, rfl⟩)

theorem eq_coreReset_of_step {s t : State} (hop : s.hostOps.head? = some .reset) (h : step s = .next t) :
    t = (s.setHostOps s.hostOps.tail).coreReset := by
  obtain ⟨later, hcons⟩ := List.head?_eq_some_iff.mp hop
  rw [step_of_cons hcons] at h
  rw [hcons, List.tail_cons]
  exact (Host.Outcome.next.inj h).symm

/-- The reset event gives the values of 10_state.md R33. -/
theorem coreReset_atReset (s : State) : s.coreReset.AtReset := by
  constructor <;> rfl

/-! ## What a command's effect leaves in the core -/

@[simp] theorem effectOf_fault (i : Instr) (s : State) : (effectOf i s).fault = s.fault := by
  cases i with
  | seed | extract | crypt | validate | brute => rfl
  | gentoken => exact (effectOf_gentoken_core s).fault

/-- SEED sets the seeded mark, and no other command touches it (10_state.md R20). -/
theorem effectOf_seeded (i : Instr) (s : State) : (effectOf i s).g0.seeded = (decide (i = .seed) || s.g0.seeded) := by
  cases i with
  | seed => rfl
  | extract | crypt | validate | brute => simp [effectOf]
  | gentoken => simp [(effectOf_gentoken_core s).g0]

theorem command_of_result_ne {i : Instr} {s : State} (h : (effectOf i s).result ≠ s.result) :
    i = .extract ∨ i = .validate ∨ i = .brute := by
  cases i with
  | seed | crypt => exact absurd rfl h
  | gentoken => exact absurd (effectOf_gentoken_core s).result h
  | extract | validate | brute => decide

theorem command_of_found_ne {i : Instr} {s : State} (h : (effectOf i s).found ≠ s.found) :
    i = .validate ∨ i = .brute := by
  cases i with
  | seed | extract | crypt => exact absurd rfl h
  | gentoken => exact absurd (effectOf_gentoken_core s).found h
  | validate | brute => decide

/-! ## The state vector of an unseeded G0 -/

/-- The state with another state vector in G0. -/
def State.withMt (s : State) (mt : MtVector) : State := s.setG0 { s.g0 with mt := mt }

theorem State.SameButUnseededMt.refl (s : State) : s.SameButUnseededMt s := ⟨rfl, fun _ => rfl⟩

theorem State.SameButUnseededMt.eq_withMt {s t : State} (h : s.SameButUnseededMt t) : t = s.withMt t.g0.mt := h.rest

theorem State.SameButUnseededMt.hostReads {s t : State} (h : s.SameButUnseededMt t) : t.hostReads = s.hostReads := by
  rw [h.eq_withMt]
  rfl

/-- On a seeded G0 the relation is equality. -/
theorem State.SameButUnseededMt.eq_of_seeded {s t : State} (h : s.SameButUnseededMt t) (hs : s.g0.seeded = true) :
    t = s := by
  rw [h.eq_withMt, h.vector hs]
  rfl

theorem sameButUnseededMt_withMt {s : State} (hs : s.g0.seeded = false) (mt : MtVector) :
    s.SameButUnseededMt (s.withMt mt) :=
  ⟨rfl, fun h => absurd h (by simp [hs])⟩

/-- Two steps are not told apart: they stop alike, or go on to states that differ at most in an unseeded state vector. -/
inductive SameOutcome : Host.Outcome State Fault Refusal → Host.Outcome State Fault Refusal → Prop where
  | next {t t' : State} (h : t.SameButUnseededMt t') : SameOutcome (.next t) (.next t')
  | fault (r : Fault) : SameOutcome (.fault r) (.fault r)
  | refused (r : Refusal) : SameOutcome (.refused r) (.refused r)

theorem SameOutcome.refl (o : Host.Outcome State Fault Refusal) : SameOutcome o o := by
  cases o with
  | next t => exact .next (.refl t)
  | fault r => exact .fault r
  | refused r => exact .refused r

/-- Going on to two states of which one is the other with another unseeded vector. -/
theorem SameOutcome.next_withMt {t t' : State} {mt : MtVector} (ht : t.g0.seeded = false) (h : t' = t.withMt mt) :
    SameOutcome (.next t) (.next t') :=
  h ▸ .next (sameButUnseededMt_withMt ht mt)

theorem setBm_withMt (s : State) (mt : MtVector) (m : Memory) : (s.withMt mt).setBm m = (s.setBm m).withMt mt := rfl

/-- No command's checks look at the state vector. -/
theorem checksOf_withMt (s : State) (mt : MtVector) (i : Instr) : checksOf i (s.withMt mt) = checksOf i s := by
  cases i <;> rfl

/-- No register of the window shows the state vector. -/
theorem readReg_withMt (s : State) (mt : MtVector) (r : WindowReg) : (s.withMt mt).readReg r = s.readReg r := by
  cases r <;> rfl

section Unseeded

variable {s : State} (hs : s.g0.seeded = false) (mt : MtVector)
include hs

theorem runCommand_withMt {checks : List (Bool × FaultCode)} {effect effect' : Unit → State}
    (he : firstFault checks = none → SameOutcome (.next (effect ())) (.next (effect' ()))) :
    SameOutcome (runCommand s checks effect) (runCommand (s.withMt mt) checks effect') := by
  by_cases hf : s.fault = 0
  · cases hc : firstFault checks with
    | none =>
      rw [runCommand_effect hf hc, runCommand_effect (s := s.withMt mt) hf hc]
      exact he hc
    | some c =>
      rw [runCommand_fault hf hc, runCommand_fault (s := s.withMt mt) hf hc]
      exact .next_withMt hs rfl
  · rw [runCommand_faulted hf, runCommand_faulted (s := s.withMt mt) hf]
    exact .next_withMt hs rfl

/-- Of the commands that pass their checks on an unseeded G0, SEED replaces the vector and the others do not use it: EXTRACT
and CRYPT, which would, are stopped by UNSEEDED. -/
theorem effectOf_withMt {i : Instr} (hc : firstFault (checksOf i s) = none) :
    SameOutcome (.next (effectOf i s)) (.next (effectOf i (s.withMt mt))) := by
  cases i with
  | seed => exact .refl _
  | extract | crypt => simp [checksOf, cryptChecks, hs] at hc
  | gentoken => exact .next_withMt (by simp [effectOf_seeded, hs]) (setBm_withMt s mt _)
  | validate | brute => exact .next_withMt hs rfl

theorem exec_withMt (i : Instr) : SameOutcome (exec i s) (exec i (s.withMt mt)) := by
  rw [exec_eq, exec_eq, checksOf_withMt]
  exact runCommand_withMt hs mt (effectOf_withMt hs mt)

theorem writeCmd_withMt (w : Word) : SameOutcome (writeCmd w s) (writeCmd w (s.withMt mt)) := by
  unfold writeCmd
  split
  · exact exec_withMt hs mt _
  · exact runCommand_withMt hs mt fun _ => .next_withMt hs rfl

theorem writeReg_withMt (r : WindowReg) (v : Word) : SameOutcome (writeReg r v s) (writeReg r v (s.withMt mt)) := by
  cases r with
  | cmd => exact writeCmd_withMt hs mt v
  | arg0 | arg1 | arg2 | arg3 | result | status | reserved => exact .next_withMt hs rfl

theorem logRead_withMt (r : HostRead) : SameOutcome (.next (s.logRead r)) (.next ((s.withMt mt).logRead r)) :=
  .next_withMt hs rfl

theorem hostOp_withMt (op : HostOp) : SameOutcome (hostOp op s) (hostOp op (s.withMt mt)) := by
  cases op with
  | write a v =>
    simp only [hostOp, hostWrite]
    split
    · exact writeReg_withMt hs mt _ v
    · exact .refused _
  | read a =>
    simp only [hostOp, hostRead, readReg_withMt]
    split
    · exact logRead_withMt hs mt _
    · exact .refused _
  | memWrite addr bytes =>
    simp only [hostOp, hostMemWrite]
    split
    · exact .next_withMt hs rfl
    · exact .fault _
  | memRead addr len =>
    simp only [hostOp, hostMemRead]
    split
    · exact logRead_withMt hs mt _
    · exact .fault _
  | reset => exact .refl _

theorem step_withMt : SameOutcome (step s) (step (s.withMt mt)) := by
  cases ho : s.hostOps with
  | nil =>
    rw [step_of_nil ho, step_of_nil (s := s.withMt mt) ho]
    exact .next_withMt hs rfl
  | cons op later =>
    rw [step_of_cons ho, step_of_cons (s := s.withMt mt) ho]
    exact hostOp_withMt (s := s.setHostOps later) hs mt op

end Unseeded

theorem step_sameButUnseededMt {s s' : State} (h : s.SameButUnseededMt s') : SameOutcome (step s) (step s') := by
  cases hs : s.g0.seeded with
  | true =>
    rw [h.eq_of_seeded hs]
    exact .refl _
  | false =>
    rw [h.eq_withMt]
    exact step_withMt hs _

/-! ## The statements -/

/-- Settles O44: an unseeded vector is read by no operation that completes, and SEED and reset replace it. -/
theorem unseededVectorIsUnobservable : Obligations.UnseededVectorIsUnobservable := by
  intro s s' h
  have hstep := step_sameButUnseededMt h
  generalize step s = o, step s' = o' at hstep
  cases hstep with
  | next ht => exact ⟨fun _ he => ⟨_, rfl, by cases he; exact ⟨ht, ht.hostReads⟩⟩, nofun, nofun⟩
  | fault r => exact ⟨nofun, fun _ he => he, nofun⟩
  | refused r => exact ⟨nofun, nofun, fun _ he => he⟩

/-- Settles O5: the oldest operation is one of the interface's, so it is carried out, and the others stay pending. -/
theorem wellBehavedHostIsNeverStopped : Obligations.WellBehavedHostIsNeverStopped := by
  intro s hs
  have hnext : ∃ t, step s = .next t := by
    cases ho : s.hostOps with
    | nil => exact ⟨s, step_of_nil ho⟩
    | cons op later =>
      rw [step_of_cons ho]
      exact hostOp_next (hs op (by simp [ho])) _
  obtain ⟨t, ht⟩ := hnext
  refine ⟨t, ht, fun op hop => hs op ?_⟩
  rw [step_hostOps ht] at hop
  exact List.mem_of_mem_tail hop

/-- Settles O11: R29's three conditions are well-formedness of the access, which decides whether it reaches a register. -/
theorem onlyInterfaceAccessesAreCarriedOut : Obligations.OnlyInterfaceAccessesAreCarriedOut := by
  intro s a v
  have hwf : (a.bytes = 4 ∧ a.offset % 4 = 0 ∧ a.offset ≤ 0x1C) ↔ a.wellFormed = true := by
    rw [windowAccess_wellFormed (off := a.offset)]
    omega
  rw [hwf, step_withNext, step_withNext]
  exact ⟨fun h => ⟨hostWrite_next h v s, hostRead_next h s⟩, fun h => ⟨hostWrite_refused h v s, hostRead_refused h s⟩⟩

/-- Settles O13: each ARG register by the rules of a whole write and a whole read; a CMD write leaves the host's side. -/
theorem argRegistersAreTheHosts : Obligations.ArgRegistersAreTheHosts := by
  refine ⟨fun s v => ⟨step_write_whole s .arg0 v, step_write_whole s .arg1 v, step_write_whole s .arg2 v,
    step_write_whole s .arg3 v, step_read_whole s .arg0, step_read_whole s .arg1, step_read_whole s .arg2,
    step_read_whole s .arg3⟩, fun s t w h => ?_⟩
  rw [step_withCmdWrite] at h
  have hside := writeCmd_hostsSide h
  exact ⟨hside.arg0, hside.arg1, hside.arg2, hside.arg3⟩

/-- Settles O18: only a CMD write of a core that is not faulted, or a reset, changes the core's own state. -/
theorem faultLastsUntilReset : Obligations.FaultLastsUntilReset := by
  refine ⟨fun i s hf => ?_, fun s t hf hop h => ?_, fun s t hop h => ?_⟩
  · rw [exec_eq]
    exact runCommand_faulted hf _ _
  · rcases step_core_cases h with hcore | ⟨hrun, _⟩ | ⟨later, hreset, _⟩
    · exact ⟨hcore.fault, hcore.g0, hcore.result, hcore.found⟩
    · exact absurd hrun hf
    · exact absurd (by rw [hreset]; rfl) hop
  · rw [eq_coreReset_of_step hop h]
    rfl

/-- Settles O35: of the effects a step can have, SEED's alone sets the mark and the reset's alone clears it. -/
theorem onlySeedSetsSeededAndOnlyResetClearsIt : Obligations.OnlySeedSetsSeededAndOnlyResetClearsIt := by
  refine ⟨fun s t h hs ht => ?_, fun s t h hs ht => ?_, fun s t hop h => ?_⟩
  · rcases step_core_cases h with hcore | ⟨hrun, w, later, hops, ⟨c, rfl⟩ | ⟨i, hi, rfl⟩⟩ | ⟨later, _, rfl⟩
    · simp [hcore.g0, hs] at ht
    · simp [hs] at ht
    · have hseed : i = .seed := by simpa [effectOf_seeded, hs] using ht
      refine ⟨hrun, ?_⟩
      rw [hops, eq_encode_of_decode hi, hseed]
      rfl
    · cases ht
  · rcases step_core_cases h with hcore | ⟨_, w, later, _, ⟨c, rfl⟩ | ⟨i, _, rfl⟩⟩ | ⟨later, hops, _⟩
    · simp [hcore.g0, hs] at ht
    · simp [hs] at ht
    · simp [effectOf_seeded, hs] at ht
    · rw [hops]
      rfl
  · rw [eq_coreReset_of_step hop h]
    rfl

/-- Settles O36: a change comes from the effect of a command, which leaves the fault code and was encoded by the word. -/
theorem whoWritesResultAndFound : Obligations.WhoWritesResultAndFound := by
  intro s t h hop
  rcases step_core_cases h with hcore | ⟨hrun, w, later, hops, ⟨c, rfl⟩ | ⟨i, hi, rfl⟩⟩ | ⟨later, hreset, _⟩
  · exact ⟨fun hne => absurd hcore.result hne, fun hne => absurd hcore.found hne⟩
  · exact ⟨fun hne => absurd rfl hne, fun hne => absurd rfl hne⟩
  · have hfault : (effectOf i (s.setHostOps later)).fault = 0 := by simpa using hrun
    have hhead : s.hostOps.head? = some (.write ⟨0x00, 4⟩ (encode i)) := by
      rw [hops, eq_encode_of_decode hi]
      rfl
    refine ⟨fun hne => ⟨hrun, hfault, encode i, hhead, ?_⟩, fun hne => ⟨hrun, hfault, encode i, hhead, ?_⟩⟩
    · rcases command_of_result_ne hne with rfl | rfl | rfl <;> decide
    · rcases command_of_found_ne hne with rfl | rfl <;> decide
  · exact absurd (by rw [hreset]; rfl) hop

/-- Settles O1: `State.reset` and the reset event write R33's values, and the event touches no other core field. -/
theorem resetGivesTheSpecValues : Obligations.ResetGivesTheSpecValues := by
  refine ⟨by constructor <;> rfl, fun s => ⟨s.coreReset, ?_, coreReset_atReset s, ?_, ?_, ?_⟩⟩
  · rw [step_withNext]
    rfl
  all_goals simp

/-- Settles O3: a CMD write is `writeCmd`, which runs the command the word decodes to. -/
theorem stepRunsTheDecodedCommand : Obligations.StepRunsTheDecodedCommand := by
  have hcmd : ∀ (s : State) (w : Word) (i : Instr), decode w = .command i → step (s.withCmdWrite w) = exec i s := by
    intro s w i h
    rw [step_withCmdWrite, writeCmd_of_decode h]
  exact ⟨hcmd, fun s nbits w i h => hcmd s _ i (decode_of_decodeTableWord h)⟩

/-- Settles O12: 0x1C is the reserved register; an access at any offset but the eight is not one of the interface's. -/
theorem reservedOffsetReadsZeroAndIgnoresWrites : Obligations.ReservedOffsetReadsZeroAndIgnoresWrites := by
  intro s v
  refine ⟨step_read_whole s .reserved, step_write_whole s .reserved v, fun off hoff => ?_⟩
  have hwf : ¬(WindowAccess.mk off 4).wellFormed = true := by
    rw [windowAccess_wellFormed]
    simp only [List.mem_cons, List.not_mem_nil, or_false, not_or] at hoff
    omega
  rw [step_withNext, step_withNext]
  exact ⟨hostRead_refused hwf s, hostWrite_refused hwf v s⟩

/-- Settles O14: the rules of a whole read and a whole write, and the fields of the status word. -/
theorem resultAndStatusAreReadOnly : Obligations.ResultAndStatusAreReadOnly := fun s v =>
  ⟨step_read_whole s .cmd, step_read_whole s .result,
    ⟨s.statusWord, step_read_whole s .status, State.status_fields s.fault s.g0.seeded s.found⟩,
    step_write_whole s .result v, step_write_whole s .status v⟩

/-- Settles O40: a command records a fault or has its effect, and neither touches the host's side. -/
theorem commandsLeaveTheHostsSide : Obligations.CommandsLeaveTheHostsSide := by
  intro i s t h
  obtain ⟨h0, h1, h2, h3, hops, hreads, hdraws⟩ := exec_hostsSide h
  exact ⟨h0, h1, h2, h3, hops, hreads, hdraws⟩

/-- Settles O42: memory lists nothing, no fault is recorded, and the unseeded G0 has its cursor at N. -/
theorem resetMeetsTheInvariant : Obligations.ResetMeetsTheInvariant :=
  ⟨Memory.wf_empty, by decide, nofun, fun _ => rfl⟩

end Sys2Proof.Machine

/-! The proofs of the statements about what commands read and write in buffer memory (20_memory.md R36).

First that the operations on memory respect agreement on the bytes they read, then the same for a command's effect, then the
statements. -/

namespace Sys2Proof.Machine

/-! ## Operations on memories that agree on some bytes -/

/-- Memories that agree on a buffer hold the same bytes in it. -/
theorem Memory.buffer_congr {m m' : Memory} {b : Buffer}
    (h : ∀ a, b.base ≤ a ∧ a < b.base + b.len → m'.read a = m.read a) : m'.buffer b = m.buffer b := by
  refine List.ext_getElem (by simp) fun j hj' hj => ?_
  rw [Memory.getElem_buffer hj', Memory.getElem_buffer hj]
  rw [Memory.length_buffer] at hj
  exact h _ ⟨by omega, by omega⟩

/-- One write of the same byte makes two memories agree there, and leaves them in agreement where they were. -/
theorem Memory.read_write_congr {m m' : Memory} {a b : Nat} (v : Byte) (h : b = a ∨ m'.read b = m.read b) :
    (m'.write a v).read b = (m.write a v).read b := by
  by_cases hb : b = a
  · rw [hb, Memory.read_write_same, Memory.read_write_same]
  · rw [Memory.read_write_other v hb, Memory.read_write_other v hb]
    exact h.resolve_left hb

/-- Writing the same run of bytes makes two memories agree on the run. -/
theorem Memory.read_writeBytes_congr {m m' : Memory} {base a : Nat} {bs : List Byte}
    (h : base ≤ a ∧ a < base + bs.length) : (m'.writeBytes base bs).read a = (m.writeBytes base bs).read a := by
  obtain ⟨j, rfl⟩ := Nat.exists_eq_add_of_le h.1
  have hj : j < bs.length := by omega
  rw [Memory.read_writeBytes_inside hj, Memory.read_writeBytes_inside hj]

/-- CRYPT's loop, run on memories that agree on its input, keeps them in agreement there and makes them agree on each output
byte it writes. Both halves are needed at once: an output byte may be a later input byte (R44). -/
theorem cryptLoop_congr {inBase outBase len n a : Nat} {g : Generator} {m m' : Memory}
    (h : ∀ a, inBase ≤ a ∧ a < inBase + len → m'.read a = m.read a) (hn : n ≤ len)
    (ha : (inBase ≤ a ∧ a < inBase + len) ∨ (outBase ≤ a ∧ a < outBase + n)) :
    (cryptLoop inBase outBase g m' n).2.read a = (cryptLoop inBase outBase g m n).2.read a := by
  induction n generalizing a with
  | zero => exact h a (by omega)
  | succ n ih =>
    have hin : (cryptLoop inBase outBase g m' n).2.read (inBase + n) =
        (cryptLoop inBase outBase g m n).2.read (inBase + n) := ih (by omega) (.inl (by omega))
    rw [cryptLoop_succ, cryptLoop_succ, hin]
    refine Memory.read_write_congr _ ?_
    by_cases hout : a = outBase + n
    · exact .inl hout
    · exact .inr (ih (by omega) (by omega))

/-! ## A command's effect and buffer memory -/

/-- No command's checks look at buffer memory. -/
theorem checksOf_setBm (i : Instr) (s : State) (m : Memory) : checksOf i (s.setBm m) = checksOf i s := by
  cases i <;> rfl

/-- A core that has just recorded a fault is faulted (60_exceptions.md R94). -/
theorem raiseFault_fault_ne (s : State) (c : FaultCode) : (s.raiseFault c).fault ≠ 0 :=
  State.faulted_eq_true.mp (State.raiseFault_faulted s c)

/-- The column "writes" of R36, of a command that passes its checks. -/
theorem effectOf_bm_outside {i : Instr} {s : State} {a : Nat} (h : ¬State.Writes i s a) :
    (effectOf i s).bm.read a = s.bm.read a := by
  cases i with
  | seed | extract | validate | brute => rfl
  | crypt =>
    have hout : a < s.cryptOut.base ∨ s.cryptOut.base + s.cryptIn.len ≤ a := by
      simp only [State.Writes, State.cryptOut, State.cryptIn] at h ⊢
      omega
    exact cryptLoop_outside _ _ _ _ hout
  | gentoken =>
    have hout : a < s.tokenOut.base ∨ s.tokenOut.base + (token s.arg0).length ≤ a := by
      simp only [State.Writes, State.tokenOut, length_token, Config.tokenLen] at h ⊢
      omega
    exact Memory.read_writeBytes_outside hout

section Reads

variable {i : Instr} {s : State} {m : Memory} (hm : ∀ a, State.Reads i s a → m.read a = s.bm.read a)
include hm

/-- The column "reads" of R36, of a command that passes its checks: on another memory that agrees there, its effect is the
same up to memory. -/
theorem effectOf_setBm : effectOf i (s.setBm m) = (effectOf i s).setBm (effectOf i (s.setBm m)).bm := by
  cases i with
  | seed | extract | crypt => rfl
  | gentoken =>
    obtain ⟨m₁, h₁⟩ := effectOf_gentoken_eq (s.setBm m)
    obtain ⟨m₂, h₂⟩ := effectOf_gentoken_eq s
    rw [h₁, h₂]
    rfl
  | validate =>
    have hsearch : validateSearch (s.setBm m) = validateSearch s := by
      have htok : m.buffer s.tokenIn = s.bm.buffer s.tokenIn := Memory.buffer_congr hm
      exact congrArg (fun tok => searchFrom _ (validateMatches tok) 0 _) htok
    rw [effectOf, hsearch]
    rfl
  | brute =>
    have hsearch : bruteSearch (s.setBm m) = bruteSearch s := by
      have hct : m.buffer s.cipherIn = s.bm.buffer s.cipherIn := Memory.buffer_congr fun a ha => hm a (.inl ha)
      have hsuf : m.buffer s.suffixIn = s.bm.buffer s.suffixIn := Memory.buffer_congr fun a ha => hm a (.inr ha)
      exact congrArg₂ (fun ct suf => searchFrom _ (bruteMatches ct suf) 0 _) hct hsuf
    rw [effectOf, hsearch]
    rfl

/-- The bytes a command writes come from no byte outside the column "reads" of R36. -/
theorem effectOf_setBm_bm {a : Nat} (ha : State.Writes i s a) :
    (effectOf i (s.setBm m)).bm.read a = (effectOf i s).bm.read a := by
  cases i with
  | seed | extract | validate | brute => exact ha.elim
  | crypt => exact cryptLoop_congr hm (Nat.le_refl _) (.inr ha)
  | gentoken => exact Memory.read_writeBytes_congr (by rw [length_token]; exact ha)

end Reads

/-! ## The statements -/

/-- Settles O37: neither a faulted core nor a fault touches memory, and the effect writes inside R36's range. -/
theorem commandsWriteOnlyTheirBuffers : Obligations.CommandsWriteOnlyTheirBuffers := by
  intro i s t h a ha
  rcases exec_cases h with ⟨_, rfl⟩ | ⟨_, c, _, rfl⟩ | ⟨_, _, rfl⟩
  · rfl
  · rfl
  · exact effectOf_bm_outside ha

/-- Settles O38: the checks do not look at memory, so the command takes the same branch, and its effect reads inside R36's
range. -/
theorem commandsReadOnlyTheirBuffers : Obligations.CommandsReadOnlyTheirBuffers := by
  intro i s t m h hm
  change ∃ m', exec i (s.setBm m) = .next (t.setBm m') ∧ _
  rw [exec_eq, checksOf_setBm]
  rcases exec_cases h with ⟨hf, ht⟩ | ⟨hrun, c, hc, rfl⟩ | ⟨hrun, hc, rfl⟩
  · rw [ht]
    exact ⟨m, runCommand_faulted (s := s.setBm m) hf _ _, fun h0 => absurd h0 hf⟩
  · exact ⟨m, runCommand_fault (s := s.setBm m) hrun hc _, fun h0 => absurd h0 (raiseFault_fault_ne s c)⟩
  · refine ⟨(effectOf i (s.setBm m)).bm, ?_, fun _ a ha => effectOf_setBm_bm hm ha⟩
    rw [← effectOf_setBm hm]
    exact runCommand_effect (s := s.setBm m) hrun hc _

end Sys2Proof.Machine

/-! The proofs of the statements about encoding: the decoder and the encoder, the host's memory accesses, the assembler, and
unused operands (30_encoding.md).

First the layer of rules: the opcode map and its inverse, the decoder by its two fields, and a CMD write by what the decoder
answers. Then the rule for a change of state that a command ignores, the assembler's ILLEGAL line, and the statements. -/

namespace Sys2Proof.Machine

/-! ## The opcode map and the decoder (R49, R52) -/

theorem legalWord (i : Instr) : Laws.LegalWord.Statement i :=
  match i with
  | .seed => Laws.LegalWord.seed
  | .extract => Laws.LegalWord.extract
  | .crypt => Laws.LegalWord.crypt
  | .gentoken => Laws.LegalWord.gentoken
  | .validate => Laws.LegalWord.validate
  | .brute => Laws.LegalWord.brute

theorem opcode_range (i : Instr) : 0x01 ≤ opcode i ∧ opcode i ≤ 0x06 := by
  obtain ⟨_, _, _, hrange⟩ := legalWord i
  exact hrange

@[simp] theorem commandOfOpcode_opcode (i : Instr) : commandOfOpcode (opcode i) = some i := by
  cases i <;> rfl

/-- No command has an opcode outside 0x01..0x06. -/
theorem commandOfOpcode_eq_none {opc : Byte} (h : opc = 0x00 ∨ 0x07 ≤ opc) : commandOfOpcode opc = none := by
  refine Option.eq_none_iff_forall_ne_some.mpr fun i hi => ?_
  have hopc : opc = opcode i := eq_opcode_of_commandOfOpcode hi
  have hrange := opcode_range i
  rw [← hopc] at hrange
  bv_omega

theorem decode_of_rsvField_ne {w : Word} (h : rsvField w ≠ 0) : decode w = .illegal .reservedBitSet := if_neg h

theorem decode_of_opcode {w : Word} {i : Instr} (hrsv : rsvField w = 0) (hopc : opcField w = opcode i) :
    decode w = .command i := by
  rw [decode, if_pos hrsv, hopc, commandOfOpcode_opcode]

theorem decode_of_noSuchOpcode {w : Word} (hrsv : rsvField w = 0) (hopc : opcField w = 0x00 ∨ 0x07 ≤ opcField w) :
    decode w = .illegal .noSuchOpcode := by
  rw [decode, if_pos hrsv, commandOfOpcode_eq_none hopc]

@[simp] theorem decode_encode (i : Instr) : decode (encode i) = .command i := by
  obtain ⟨_, hrsv, hopc, _⟩ := legalWord i
  exact decode_of_opcode hrsv hopc

theorem decode_eq_command_iff {w : Word} {i : Instr} : decode w = .command i ↔ w = encode i :=
  ⟨eq_encode_of_decode, fun h => h ▸ decode_encode i⟩

/-- A command word, as a number, is its opcode. -/
theorem encode_toNat (i : Instr) : (encode i).toNat = (opcode i).toNat :=
  BitVec.toNat_setWidth_of_le (by decide)

/-- The encoder reaches every word from 1 to 6. -/
theorem exists_eq_encode {w : Word} (h : 1 ≤ w.toNat ∧ w.toNat ≤ 6) : ∃ i, w = encode i := by
  have hcases : w.toNat = 1 ∨ w.toNat = 2 ∨ w.toNat = 3 ∨ w.toNat = 4 ∨ w.toNat = 5 ∨ w.toNat = 6 := by omega
  rcases hcases with hw | hw | hw | hw | hw | hw
  · exact ⟨.seed, BitVec.eq_of_toNat_eq hw⟩
  · exact ⟨.extract, BitVec.eq_of_toNat_eq hw⟩
  · exact ⟨.crypt, BitVec.eq_of_toNat_eq hw⟩
  · exact ⟨.gentoken, BitVec.eq_of_toNat_eq hw⟩
  · exact ⟨.validate, BitVec.eq_of_toNat_eq hw⟩
  · exact ⟨.brute, BitVec.eq_of_toNat_eq hw⟩

/-! ## A CMD write -/

/-- A core that is not faulted records ILLEGAL_CMD at an illegal word (60_exceptions.md R87). -/
theorem writeCmd_of_illegal {w : Word} {why : IllegalWord} {s : State} (h : decode w = .illegal why) (hf : s.fault = 0) :
    writeCmd w s = .next (s.raiseFault .illegalCmd) := by
  simp only [writeCmd, h]
  exact runCommand_fault hf rfl _

/-- A faulted core does nothing at a CMD write, whatever the word (R54). -/
theorem writeCmd_faulted {s : State} (hf : s.fault ≠ 0) (w : Word) : writeCmd w s = .next s := by
  obtain ⟨t, ht⟩ := writeCmd_next w s
  rcases writeCmd_cases ht with rfl | ⟨hrun, _⟩ | ⟨hrun, _⟩
  · exact ht
  · exact absurd hrun hf
  · exact absurd hrun hf

/-! ## A change of state that a command ignores (R50) -/

/-- Command `i` ignores the change `f` of the state: its checks do not see it, its effect keeps it, and it neither touches the
fault code nor depends on it. -/
structure Ignores (i : Instr) (f : State → State) : Prop where
  fault  : ∀ s, (f s).fault = s.fault
  raise  : ∀ s c, (f s).raiseFault c = f (s.raiseFault c)
  checks : ∀ s, checksOf i (f s) = checksOf i s
  effect : ∀ s, effectOf i (f s) = f (effectOf i s)

/-- A command does the same after a change it ignores, and the change stays. -/
theorem Ignores.exec {i : Instr} {f : State → State} (hi : Ignores i f) {s t : State} (h : exec i s = .next t) :
    exec i (f s) = .next (f t) := by
  rw [exec_eq, hi.checks, hi.effect]
  rcases exec_cases h with ⟨hf, ht⟩ | ⟨hrun, c, hc, ht⟩ | ⟨hrun, hc, ht⟩
  · rw [ht]
    exact runCommand_faulted (by rwa [hi.fault]) _ _
  · rw [ht, ← hi.raise]
    exact runCommand_fault (by rwa [hi.fault]) hc _
  · rw [ht]
    exact runCommand_effect (by rwa [hi.fault]) hc _

/-- How many of the ARG registers, from ARG0 on, a command uses (R50). -/
def usedArgs : Instr → Nat
  | .seed                        => 1
  | .extract                     => 0
  | .crypt | .validate | .brute  => 4
  | .gentoken                    => 2

theorem ignores_setArg0 {i : Instr} (h : usedArgs i ≤ 0) (v : Word) : Ignores i (·.setArg0 v) := by
  cases i with
  | extract => constructor <;> intros <;> rfl
  | seed | crypt | gentoken | validate | brute => exact absurd h (by decide)

theorem ignores_setArg1 {i : Instr} (h : usedArgs i ≤ 1) (v : Word) : Ignores i (·.setArg1 v) := by
  cases i with
  | seed | extract => constructor <;> intros <;> rfl
  | crypt | gentoken | validate | brute => exact absurd h (by decide)

theorem ignores_setArg2 {i : Instr} (h : usedArgs i ≤ 2) (v : Word) : Ignores i (·.setArg2 v) := by
  cases i with
  | seed | extract | gentoken => constructor <;> intros <;> rfl
  | crypt | validate | brute => exact absurd h (by decide)

theorem ignores_setArg3 {i : Instr} (h : usedArgs i ≤ 3) (v : Word) : Ignores i (·.setArg3 v) := by
  cases i with
  | seed | extract | gentoken => constructor <;> intros <;> rfl
  | crypt | validate | brute => exact absurd h (by decide)

/-! ## The assembler (R57) -/

theorem illegal_wellFormed_iff {w : Word} :
    (AsmLine.illegal w).wellFormed = true ↔ ∃ why, decode w = .illegal why := by
  cases h : decode w with
  | command i => simp [AsmLine.wellFormed, h]
  | illegal why => simp [AsmLine.wellFormed, h]

/-! ## The statements -/

/-- Settles O7: the decoder inverts the encoder, so the legal words are the encoder's values, the opcodes 1 to 6. -/
theorem decodeAndEncodeAgree : Obligations.DecodeAndEncodeAgree := by
  refine ⟨fun w i => decode_eq_command_iff, fun i => ?_, fun w => ?_⟩
  · obtain ⟨hwf, _⟩ := legalWord i
    exact ⟨hwf, rfl⟩
  · simp only [decode_eq_command_iff]
    refine ⟨?_, exists_eq_encode⟩
    rintro ⟨i, rfl⟩
    rw [encode_toNat]
    exact opcode_range i

/-- Settles O6: the decoder by its two fields, and a CMD write of an illegal word. -/
theorem decodeIsTheOpcodeMap : Obligations.DecodeIsTheOpcodeMap := by
  intro w
  refine ⟨fun hrsv => ⟨_, decode_of_rsvField_ne hrsv⟩, fun hrsv => ?_, fun why s h hf => ?_⟩
  · exact ⟨decode_of_opcode (i := .seed) hrsv, decode_of_opcode (i := .extract) hrsv, decode_of_opcode (i := .crypt) hrsv,
      decode_of_opcode (i := .gentoken) hrsv, decode_of_opcode (i := .validate) hrsv, decode_of_opcode (i := .brute) hrsv,
      fun hopc => ⟨_, decode_of_noSuchOpcode hrsv hopc⟩⟩
  · rw [step_withCmdWrite]
    exact writeCmd_of_illegal h hf

/-- Settles O17: a CMD write is `writeCmd`, which does nothing on a faulted core. -/
theorem faultedCoreIgnoresCmdWrites : Obligations.FaultedCoreIgnoresCmdWrites := by
  intro s w hf
  rw [step_withCmdWrite]
  exact writeCmd_faulted hf w

/-- Settles O41: inside buffer memory by the rules of runs of bytes, past the top by the bound that the host access checks. -/
theorem hostMemoryAccesses : Obligations.HostMemoryAccesses := by
  intro s addr len bytes
  simp only [step_withNext]
  refine ⟨fun h => ?_, fun h => if_neg (Nat.not_le.mpr h), fun h => ?_, fun h => if_neg (Nat.not_le.mpr h)⟩
  · exact ⟨s.bm.writeBytes addr bytes, if_pos h, fun j hj => Memory.read_writeBytes_inside hj,
      fun a ha => Memory.read_writeBytes_outside ha⟩
  · exact ⟨s.bm.readBytes addr len, if_pos h, Memory.length_readBytes _ _ _, fun j hj => Memory.getElem_readBytes hj⟩

/-- Settles O8: the six words are the encoder's, and the four illegal ones are rejected by one field each. -/
theorem writtenOutWordsDecode : Obligations.WrittenOutWordsDecode :=
  ⟨decode_encode .seed, decode_encode .extract, decode_encode .crypt, decode_encode .gentoken, decode_encode .validate,
    decode_encode .brute, decode_of_noSuchOpcode rfl (by decide), decode_of_noSuchOpcode rfl (by decide),
    decode_of_rsvField_ne (by decide), decode_of_rsvField_ne (by decide)⟩

/-- Settles O9: each form is the list of its operands paired with the first ARG offsets, and its command word. -/
theorem mnemonicFormsExpand : Obligations.MnemonicFormsExpand := fun _ _ _ _ _ => ⟨rfl, rfl, rfl, rfl, rfl, rfl⟩

/-- Settles O10: the expansions are those of the lines they stand for; ILLEGAL's check asks the decoder. -/
theorem pseudoInstructionsExpand : Obligations.PseudoInstructionsExpand := fun _ _ _ _ =>
  ⟨rfl, rfl, rfl, rfl, illegal_wellFormed_iff⟩

/-- Settles O39: writing an unused ARG register is a change that the command ignores. -/
theorem unusedArgsAreIgnored : Obligations.UnusedArgsAreIgnored := fun _ _ v =>
  ⟨fun h => ⟨(ignores_setArg1 (by decide) v).exec h, (ignores_setArg2 (by decide) v).exec h,
      (ignores_setArg3 (by decide) v).exec h⟩,
    fun h => ⟨(ignores_setArg0 (by decide) v).exec h, (ignores_setArg1 (by decide) v).exec h,
      (ignores_setArg2 (by decide) v).exec h, (ignores_setArg3 (by decide) v).exec h⟩,
    fun h => ⟨(ignores_setArg2 (by decide) v).exec h, (ignores_setArg3 (by decide) v).exec h⟩⟩

end Sys2Proof.Machine

/-! The proofs of the statements about the generator (40_generator.md).

First the layer of rules: INIT and TWIST word by word, TEMPER as four invertible stages, the cadence of the lazy twist, and what
SEED and EXTRACT answer on a running core. Then the statements. -/

namespace Sys2Proof.Machine

/-! ## INIT word by word (R60) -/

theorem wordAt_init_zero (v : Word) : wordAt (init v) 0 = v :=
  (wordAt_of_lt _ (by decide)).trans (init_zero v)

theorem wordAt_init_succ (v : Word) {i : Nat} (h : i + 1 < 624) :
    wordAt (init v) (i + 1) = seedStep (i + 1) (wordAt (init v) i) := by
  rw [wordAt_of_lt _ h, wordAt_of_lt _ (Nat.lt_of_succ_lt h), init_succ v i h]

/-! ## TWIST word by word (R61) -/

/-- Indices are counted modulo N. -/
theorem wordAt_add_N (mt : MtVector) (k : Nat) : wordAt mt (k + 624) = wordAt mt k := by
  simp only [wordAt, Nat.add_mod_right]

/-- Step k of TWIST still finds the old word at every index from k on. -/
theorem wordAt_twistSteps_old (mt : MtVector) {k p : Nat} (hk : k ≤ p) (hp : p < 624) :
    wordAt (twistSteps mt k) p = wordAt mt p := by
  rw [wordAt_of_lt _ hp, wordAt_of_lt _ hp, getElem_twistSteps_of_le mt hk hp]

/-- Step k of TWIST finds the new word at every index below k. -/
theorem wordAt_twistSteps_new (mt : MtVector) {k p : Nat} (hp : p < k) (hk : k ≤ 624) :
    wordAt (twistSteps mt k) p = wordAt (twist mt) p := by
  have hN : p < 624 := by omega
  rw [wordAt_of_lt _ hN, wordAt_of_lt _ hN, getElem_twistSteps mt hk hN, if_pos hp]

/-- The word TWIST leaves at index i, from the vector as step i finds it. -/
theorem wordAt_twist (mt : MtVector) {i : Nat} (hi : i < 624) :
    wordAt (twist mt) i = twistWord (twistSteps mt i) i :=
  (wordAt_of_lt _ hi).trans (getElem_twist mt hi)

theorem wordAt_twist_of_lt (mt : MtVector) {i : Nat} (hi : i < 227) :
    wordAt (twist mt) i = wordAt mt (i + 397) ^^^ twistMix (wordAt mt i) (wordAt mt (i + 1)) := by
  rw [wordAt_twist mt (by omega), twistWord, wordAt_twistSteps_old mt (p := i + 397) (by omega) (by omega),
    wordAt_twistSteps_old mt (p := i) (by omega) (by omega), wordAt_twistSteps_old mt (p := i + 1) (by omega) (by omega)]

theorem wordAt_twist_of_ge (mt : MtVector) {i : Nat} (hi : 227 ≤ i) (hi' : i < 623) :
    wordAt (twist mt) i = wordAt (twist mt) (i - 227) ^^^ twistMix (wordAt mt i) (wordAt mt (i + 1)) := by
  have hwrap : i + 397 = (i - 227) + 624 := by omega
  rw [wordAt_twist mt (by omega), twistWord, hwrap, wordAt_add_N, wordAt_twistSteps_new mt (by omega) (by omega),
    wordAt_twistSteps_old mt (p := i) (by omega) (by omega), wordAt_twistSteps_old mt (p := i + 1) (by omega) (by omega)]

theorem wordAt_twist_last (mt : MtVector) :
    wordAt (twist mt) 623 = wordAt (twist mt) 396 ^^^ twistMix (wordAt mt 623) (wordAt (twist mt) 0) := by
  have hahead : 623 + Config.M = 396 + 624 := rfl
  have hnext : 623 + 1 = 0 + 624 := rfl
  rw [wordAt_twist mt (by omega), twistWord, hahead, hnext, wordAt_add_N, wordAt_add_N,
    wordAt_twistSteps_new mt (p := 396) (by omega) (by omega), wordAt_twistSteps_new mt (p := 0) (by omega) (by omega),
    wordAt_twistSteps_old mt (p := 623) (by omega) (by omega)]

/-! ## TEMPER, stage by stage (R62) -/

/-- A stage that XORs a word with a linear function of it is injective when that function fixes no word but 0. -/
theorem xorStage_injective {f : Word → Word} (hlin : ∀ x y, f (x ^^^ y) = f x ^^^ f y) (hfix : ∀ d, d = f d → d = 0) :
    Function.Injective fun y => y ^^^ f y := by
  intro x y h
  have hdiff : x ^^^ y = f (x ^^^ y) := by
    rw [hlin]
    refine BitVec.xor_eq_zero_iff.mp ?_
    calc (x ^^^ y) ^^^ (f x ^^^ f y) = (x ^^^ f x) ^^^ (y ^^^ f y) := by ac_rfl
      _ = 0 := BitVec.xor_eq_zero_iff.mpr h
  exact BitVec.xor_eq_zero_iff.mp (hfix _ hdiff)

/-- A word that a right shift keeps is 0: the shift makes any other smaller. -/
theorem eq_zero_of_eq_shiftRight {d : Word} {k : Nat} (hk : 0 < k) (h : d = d >>> k) : d = 0 := by
  have hval : d.toNat = d.toNat / 2 ^ k := by
    rw [← Nat.shiftRight_eq_div_pow, ← BitVec.toNat_ushiftRight, ← h]
  by_contra hne
  have hpos : 0 < d.toNat := Nat.pos_of_ne_zero fun h0 => hne (BitVec.eq_of_toNat_eq h0)
  have hlt : d.toNat / 2 ^ k < d.toNat := Nat.div_lt_self hpos (Nat.one_lt_two_pow hk.ne')
  omega

/-- A word that a masked left shift keeps is 0: each of its bits is a lower bit of it, masked. -/
theorem eq_zero_of_eq_shiftLeft_and {d m : Word} {k : Nat} (hk : 0 < k) (h : d = (d <<< k) &&& m) : d = 0 := by
  have hbit : ∀ i, d.getLsbD i = false := by
    intro i
    induction i using Nat.strong_induction_on with
    | h i ih =>
      rw [h, BitVec.getLsbD_and, BitVec.getLsbD_shiftLeft]
      by_cases hi : i < k
      · simp [hi]
      · simp [ih (i - k) (by omega)]
  exact BitVec.eq_of_getLsbD_eq fun i _ => by simp [hbit i]

theorem shiftRightStage_injective {k : Nat} (hk : 0 < k) : Function.Injective fun y : Word => y ^^^ (y >>> k) :=
  xorStage_injective (fun x y => BitVec.ushiftRight_xor_distrib x y k) fun _ => eq_zero_of_eq_shiftRight hk

theorem shiftLeftStage_injective {k : Nat} (hk : 0 < k) (m : Word) :
    Function.Injective fun y : Word => y ^^^ ((y <<< k) &&& m) := by
  refine xorStage_injective (fun x y => ?_) fun _ => eq_zero_of_eq_shiftLeft_and hk
  rw [BitVec.shiftLeft_xor_distrib]
  exact BitVec.eq_of_getLsbD_eq fun i _ => by simp [Bool.and_xor_distrib_right]

/-- TEMPER is its four stages, one after another. -/
theorem temper_injective : Function.Injective temper :=
  (shiftRightStage_injective (k := Config.temperL) (by decide)).comp <|
    (shiftLeftStage_injective (k := Config.temperT) (by decide) Config.temperC).comp <|
      (shiftLeftStage_injective (k := Config.temperS) (by decide) Config.temperB).comp <|
        shiftRightStage_injective (k := Config.temperU) (by decide)

/-! ## The cadence of the lazy twist (R67) -/

/-- The cursor and the vector after k + 1 extractions from a fresh seeding. -/
theorem advance_fresh_succ (v : Word) (k : Nat) :
    ((Generator.fresh v).advance (k + 1)).idx.val = k % 624 + 1 ∧
    ((Generator.fresh v).advance (k + 1)).mt = twist^[k / 624 + 1] (init v) := by
  induction k with
  | zero =>
    obtain ⟨hmt, hidx⟩ := (Generator.fresh v).afterNext_of_end (Generator.fresh_idx v)
    exact ⟨hidx, hmt⟩
  | succ k ih =>
    obtain ⟨hidx, hmt⟩ := ih
    rw [Generator.advance_succ]
    by_cases hend : k % 624 + 1 = 624
    · have hdiv : (k + 1) / 624 + 1 = (k / 624 + 1) + 1 := by omega
      obtain ⟨hmt', hidx'⟩ := Generator.afterNext_of_end _ (hidx.trans hend)
      rw [hmt', hidx', hmt, hdiv, Function.iterate_succ_apply' twist (k / 624 + 1)]
      exact ⟨by omega, rfl⟩
    · have hdiv : (k + 1) / 624 = k / 624 := by omega
      have hin : k % 624 + 1 < 624 := by omega
      obtain ⟨hmt', hidx'⟩ := Generator.afterNext_of_inside _ (hidx.trans_lt hin)
      rw [hmt', hidx', hidx, hmt, hdiv]
      exact ⟨by omega, rfl⟩

/-- After k extractions the next one twists exactly when k is a multiple of N. -/
theorem advance_fresh_idx_eq_N_iff (v : Word) (k : Nat) :
    ((Generator.fresh v).advance k).idx.val = 624 ↔ k % 624 = 0 := by
  cases k with
  | zero => simp
  | succ k =>
    obtain ⟨hidx, _⟩ := advance_fresh_succ v k
    omega

/-! ## SEED and EXTRACT on a running core (R64, R65) -/

theorem exec_seed {s : State} (hf : s.fault = 0) : exec .seed s = .next (s.setG0 (.fresh s.arg0)) := by
  rw [exec_eq]
  exact runCommand_effect hf rfl _

theorem exec_extract_seeded {s : State} (hf : s.fault = 0) (hs : s.g0.seeded = true) :
    exec .extract s = .next ((s.setG0 s.g0.afterNext).setResult s.g0.nextWord) := by
  rw [exec_eq]
  exact runCommand_effect hf (by simp [checksOf, hs]) _

theorem exec_extract_unseeded {s : State} (hf : s.fault = 0) (hs : s.g0.seeded = false) :
    exec .extract s = .next (s.raiseFault .unseeded) := by
  rw [exec_eq]
  exact runCommand_fault hf (by simp [checksOf, hs]) _

/-! ## The statements -/

/-- Settles O19: SEED's effect installs the fresh generator, whose words are INIT's. -/
theorem seedInstallsTheRecurrence : Obligations.SeedInstallsTheRecurrence := by
  intro s hf
  refine ⟨.fresh s.arg0, exec_seed hf, rfl, wordAt_init_zero _, fun i h1 hi => ?_, rfl, rfl⟩
  obtain ⟨j, rfl⟩ := Nat.exists_eq_add_of_le' h1
  exact wordAt_init_succ s.arg0 hi

/-- Settles O20: EXTRACT's effect is NEXT, by whether the cursor is at the sentinel; its one check is the seeded mark. -/
theorem extractReturnsTheNextWord : Obligations.ExtractReturnsTheNextWord := by
  intro s hf
  refine ⟨fun hs => ⟨s.g0.afterNext, s.g0.nextWord, exec_extract_seeded hf hs, hs, rfl, fun hend => ?_, fun hin => ?_⟩,
    exec_extract_unseeded hf⟩
  · obtain ⟨hmt, hidx⟩ := s.g0.afterNext_of_end hend
    exact ⟨hmt, hidx, by rw [hmt, s.g0.nextWord_of_end hend, wordAt_of_lt _ (by decide)]⟩
  · obtain ⟨hmt, hidx⟩ := s.g0.afterNext_of_inside hin
    exact ⟨hmt, hidx, by rw [s.g0.nextWord_of_inside hin, wordAt_of_lt _ hin]⟩

/-- Settles O21: step i reads an index below i as new and any other as old; the three clauses are the ways i, i + 1 and
i + M, modulo N, fall on the two sides of i. -/
theorem twistIsSequentialInPlace : Obligations.TwistIsSequentialInPlace := fun mt =>
  ⟨fun _ hi => wordAt_twist_of_lt mt hi, fun _ hi hi' => wordAt_twist_of_ge mt hi hi', wordAt_twist_last mt⟩

/-- Settles O22: an injective function on the finitely many words is a bijection. -/
theorem temperIsTheOutputBijection : Obligations.TemperIsTheOutputBijection :=
  ⟨fun _ => rfl, Finite.injective_iff_bijective.mp temper_injective, by decide⟩

/-- Settles O23: extraction k is number k - 1 counted from 0. -/
theorem twistCadence : Obligations.TwistCadence := by
  intro v k hk
  obtain ⟨j, rfl⟩ := Nat.exists_eq_add_of_le' hk
  obtain ⟨hidx, hmt⟩ := advance_fresh_succ v j
  have hceil : (j + 1 + 623) / 624 = j / 624 + 1 := by omega
  rw [hceil]
  exact ⟨hidx, hmt, advance_fresh_idx_eq_N_iff v j⟩

/-- Settles O24: what SEED leaves in G0 is a function of ARG0, and what EXTRACT leaves in G0 and RESULT one of G0. -/
theorem sameSeedSameWords : Obligations.SameSeedSameWords := by
  intro s s' t t' hf hf'
  refine ⟨fun harg h h' => ?_, fun hg hs h h' => ?_⟩
  · rw [exec_seed hf] at h
    rw [exec_seed hf'] at h'
    cases h
    cases h'
    simp [harg]
  · rw [exec_extract_seeded hf hs] at h
    rw [exec_extract_seeded hf' (hg ▸ hs)] at h'
    cases h
    cases h'
    simp [hg]

end Sys2Proof.Machine

/-! The proofs of the statements about the stream cipher (41_stream_cipher.md).

First the layer of rules: what CRYPT answers on a running core, and what its effect leaves in G0 and in buffer memory, in
general and for an input read ahead of being overwritten. Then the statements. -/

namespace Sys2Proof.Machine

/-! ## CRYPT's checks on a running core (R70, 60_exceptions.md R95) -/

section Checks

variable {s : State}

/-- CRYPT's checks on a seeded G0, on the ARG registers. -/
theorem firstFault_cryptChecks (hs : s.g0.seeded = true) :
    firstFault (cryptChecks s) =
      if s.arg3 < s.arg2 then some .outbufShort
      else if s.arg0.toNat + s.arg2.toNat ≤ 2 ^ 32 ∧ s.arg1.toNat + s.arg3.toNat ≤ 2 ^ 32 then none
      else some .range := by
  have hvalid : (!s.cryptIn.valid || !s.cryptOut.valid) = true ↔
      ¬(s.arg0.toNat + s.arg2.toNat ≤ 2 ^ 32 ∧ s.arg1.toNat + s.arg3.toNat ≤ 2 ^ 32) := by
    simp only [Bool.or_eq_true, Bool.not_eq_true', Buffer.valid_eq_false, State.cryptIn, State.cryptOut]
    omega
  by_cases hshort : s.arg3 < s.arg2
  · have hlen : s.cryptOut.len < s.cryptIn.len := hshort
    simp [cryptChecks, hs, hshort, hlen]
  · have hlen : ¬s.cryptOut.len < s.cryptIn.len := hshort
    simp only [cryptChecks, hs, hshort, hlen, Bool.not_true, decide_false, firstFault_false, if_false]
    simp only [firstFault, hvalid, ite_not]

theorem exec_crypt_unseeded (hf : s.fault = 0) (hs : s.g0.seeded = false) :
    exec .crypt s = .next (s.raiseFault .unseeded) := by
  rw [exec_eq]
  exact runCommand_fault hf (by simp [checksOf, cryptChecks, hs]) _

theorem exec_crypt_short (hf : s.fault = 0) (hs : s.g0.seeded = true) (hlen : s.arg3 < s.arg2) :
    exec .crypt s = .next (s.raiseFault .outbufShort) := by
  rw [exec_eq]
  exact runCommand_fault hf ((firstFault_cryptChecks hs).trans (if_pos hlen)) _

theorem exec_crypt_range (hf : s.fault = 0) (hs : s.g0.seeded = true) (hlen : s.arg2 ≤ s.arg3)
    (hout : 2 ^ 32 < s.arg0.toNat + s.arg2.toNat ∨ 2 ^ 32 < s.arg1.toNat + s.arg3.toNat) :
    exec .crypt s = .next (s.raiseFault .range) := by
  have hc : firstFault (cryptChecks s) = some .range := by
    rw [firstFault_cryptChecks hs, if_neg (BitVec.not_lt.mpr hlen), if_neg (by omega)]
  rw [exec_eq]
  exact runCommand_fault hf hc _

theorem exec_crypt_ready (h : s.CryptReady) : exec .crypt s = .next (effectOf .crypt s) := by
  have hc : firstFault (cryptChecks s) = none := by
    rw [firstFault_cryptChecks h.seeded, if_neg (BitVec.not_lt.mpr h.enough), if_pos ⟨h.input, h.output⟩]
  rw [exec_eq]
  exact runCommand_effect h.running hc _

end Checks

/-! ## CRYPT's effect (R70, 20_memory.md R44) -/

/-- What iteration j finds in memory: the final byte at an address that an earlier iteration wrote, else the old byte. -/
theorem cryptLoop_read {inBase outBase n j : Nat} {g : Generator} {m : Memory} (hj : j ≤ n) (a : Nat) :
    (cryptLoop inBase outBase g m j).2.read a =
      if outBase ≤ a ∧ a < outBase + j then (cryptLoop inBase outBase g m n).2.read a else m.read a := by
  split
  · exact cryptLoop_settled _ _ _ _ hj (by omega)
  · exact cryptLoop_outside _ _ _ _ (by omega)

section Effect

variable {s : State} {j : Nat}

theorem effectOf_crypt_g0 : (effectOf .crypt s).g0 = s.g0.advance s.arg2.toNat := rfl

/-- Output byte j, from the input byte as iteration j reads it. -/
theorem effectOf_crypt_byte (hj : j < s.arg2.toNat) :
    (effectOf .crypt s).bm.read (s.arg1.toNat + j) =
      (if s.arg1.toNat ≤ s.arg0.toNat + j ∧ s.arg0.toNat + j < s.arg1.toNat + j
        then (effectOf .crypt s).bm.read (s.arg0.toNat + j)
        else s.bm.read (s.arg0.toNat + j)) ^^^ s.g0.keyByte j :=
  (cryptLoop_byte _ _ _ _ hj).trans (congrArg (· ^^^ s.g0.keyByte j) (cryptLoop_read (Nat.le_of_lt hj) _))

/-- Output byte j of an input that is read before it is overwritten. -/
theorem effectOf_crypt_byte_of_readsAhead (h : s.CryptReadsAhead) (hj : j < s.arg2.toNat) :
    (effectOf .crypt s).bm.read (s.arg1.toNat + j) = s.bm.read (s.arg0.toNat + j) ^^^ s.g0.keyByte j := by
  have hkept : ¬(s.arg1.toNat ≤ s.arg0.toNat + j ∧ s.arg0.toNat + j < s.arg1.toNat + j) := by
    unfold State.CryptReadsAhead at h
    omega
  rw [effectOf_crypt_byte hj, if_neg hkept]

end Effect

/-- What CRYPT leaves when it completes is its effect. -/
theorem eq_effectOf_of_exec_crypt {s t : State} (h : s.CryptReady) (ht : exec .crypt s = .next t) :
    t = effectOf .crypt s :=
  (Host.Outcome.next.inj ((exec_crypt_ready h).symm.trans ht)).symm

/-- Keystream byte j of a generator that has made k extractions is byte k + j of the generator it was (R72). -/
theorem Generator.keyByte_advance (g : Generator) (k j : Nat) : (g.advance k).keyByte j = g.keyByte (k + j) := by
  simp only [Generator.keyByte, Generator.advance_add]

/-! ## The statements -/

/-- Settles O25: one rule for each of CRYPT's checks, and the loop's bytes for its effect. -/
theorem cryptTransformsTheBuffer : Obligations.CryptTransformsTheBuffer := fun s hf =>
  ⟨exec_crypt_unseeded hf, exec_crypt_short hf, exec_crypt_range hf, fun h =>
    ⟨(effectOf .crypt s).bm, exec_crypt_ready h, fun _ => effectOf_crypt_byte, fun _ => cryptLoop_outside _ _ _ _⟩⟩

/-- Settles O26: both passes XOR byte j with the same keystream byte, which cancels. -/
theorem cryptIsAnInvolution : Obligations.CryptIsAnInvolution := by
  intro v s u hs hu hsAhead huAhead hsG0 huG0 hlen t ht hpass
  refine ⟨effectOf .crypt u, exec_crypt_ready hu, fun j hj => ?_⟩
  obtain rfl := eq_effectOf_of_exec_crypt hs ht
  rw [effectOf_crypt_byte_of_readsAhead huAhead (hlen ▸ hj), hpass j hj, effectOf_crypt_byte_of_readsAhead hsAhead hj,
    hsG0, huG0, BitVec.xor_assoc, BitVec.xor_self, BitVec.xor_zero]

/-- Settles O27: the first CRYPT leaves G0 n1 extractions after the seeding, and the next command goes on from there. -/
theorem cryptContinuesTheKeystream : Obligations.CryptContinuesTheKeystream := by
  intro v s t u hs hsAhead hsG0 ht htG0
  obtain rfl := eq_effectOf_of_exec_crypt hs ht
  have huG0 : u.g0 = (Generator.fresh v).advance s.arg2.toNat := by rw [htG0, effectOf_crypt_g0, hsG0]
  refine ⟨fun j hj => ?_, fun hu huAhead => ⟨effectOf .crypt u, exec_crypt_ready hu, ?_, fun j hj => ?_⟩, fun hf => ?_⟩
  · rw [effectOf_crypt_byte_of_readsAhead hsAhead hj, hsG0]
  · rw [effectOf_crypt_g0, huG0, Generator.advance_add]
  · rw [effectOf_crypt_byte_of_readsAhead huAhead hj, huG0, Generator.keyByte_advance]
  · have huSeeded : u.g0.seeded = true := by simp [huG0]
    refine ⟨_, exec_extract_seeded hf huSeeded, ?_, ?_⟩
    · simp [huG0]
    · simp [huG0, Generator.advance_succ]

end Sys2Proof.Machine

/-! The proofs of the statements about the seed search unit (42_seed_search.md).

First the layer of rules: for GENTOKEN, VALIDATE and BRUTE in turn, what the command answers on a running core, and for the two
searches what a completed search reports. Then what the three commands have to do with G0, and the statements. -/

namespace Sys2Proof.Machine

/-! ## GENTOKEN (R73, R74) -/

section Gentoken

variable {s : State}

theorem exec_gentoken_range (hf : s.fault = 0) (hout : 2 ^ 32 < s.arg1.toNat + 32) :
    exec .gentoken s = .next (s.raiseFault .range) := by
  have hvalid : s.tokenOut.valid = false := Buffer.valid_eq_false.mpr hout
  rw [exec_eq]
  exact runCommand_fault hf (by simp [checksOf, hvalid]) _

theorem exec_gentoken_ready (hf : s.fault = 0) (hout : s.arg1.toNat + 32 ≤ 2 ^ 32) :
    exec .gentoken s = .next (s.setBm (s.bm.writeBytes s.arg1.toNat (token s.arg0))) := by
  have hvalid : s.tokenOut.valid = true := Buffer.valid_eq_true.mpr hout
  rw [exec_eq]
  exact runCommand_effect hf (by simp [checksOf, hvalid]) _

end Gentoken

/-! ## VALIDATE (R75 to R77) -/

section Validate

variable {s : State}

/-- VALIDATE's checks, on the ARG registers. -/
theorem firstFault_validateChecks :
    firstFault (validateChecks s) =
      if s.arg2.toInt < 1 then some .maxageInvalid
      else if s.arg0.toNat + s.arg1.toNat ≤ 2 ^ 32 then none
      else some .range := by
  have hvalid : (!s.tokenIn.valid) = true ↔ ¬s.arg0.toNat + s.arg1.toNat ≤ 2 ^ 32 := by
    rw [Bool.not_eq_true', Buffer.valid_eq_false, Nat.not_le]
    rfl
  simp only [validateChecks, firstFault, hvalid, ite_not, decide_eq_true_eq]
  rfl

theorem exec_validate_maxage (hf : s.fault = 0) (hage : s.arg2.toInt < 1) :
    exec .validate s = .next (s.raiseFault .maxageInvalid) := by
  rw [exec_eq]
  exact runCommand_fault hf (firstFault_validateChecks.trans (if_pos hage)) _

theorem exec_validate_range (hf : s.fault = 0) (hage : 1 ≤ s.arg2.toInt) (hout : 2 ^ 32 < s.arg0.toNat + s.arg1.toNat) :
    exec .validate s = .next (s.raiseFault .range) := by
  have hc : firstFault (validateChecks s) = some .range := by
    rw [firstFault_validateChecks, if_neg (not_lt.mpr hage), if_neg (not_le.mpr hout)]
  rw [exec_eq]
  exact runCommand_fault hf hc _

theorem exec_validate_ready (h : s.ValidateReady) : exec .validate s = .next (s.reportSlot (validateSearch s)) := by
  have hc : firstFault (validateChecks s) = none := by
    rw [firstFault_validateChecks, if_neg (not_lt.mpr h.age), if_pos h.token]
  rw [exec_eq]
  exact runCommand_effect h.running hc _

/-- VALIDATE's comparator decides R76's match. -/
theorem validateMatches_iff_tokenMatch {c : Word} :
    validateMatches (s.bm.buffer s.tokenIn) c = true ↔ s.TokenMatch c := by
  have hlen : s.tokenIn.len = Config.tokenLen ↔ s.arg1 = 32 := (BitVec.toNat_inj (x := s.arg1) (y := 32))
  rw [validateMatches_iff, hlen]
  rfl

/-- The window's candidates are those whose distance from NOW is below the signed MAX_AGE (R75). -/
theorem lt_maxAge_toNat_iff {k : Nat} : k < s.maxAge.toNat ↔ (k : Int) < s.arg2.toInt := Int.lt_toNat

/-- VALIDATE reports the first candidate of the window that matches (R77). -/
theorem exec_validate_found (h : s.ValidateReady) {k : Nat} (hk : (k : Int) < s.arg2.toInt)
    (hm : s.TokenMatch (s.timestamp k)) (hbefore : ∀ i < k, ¬s.TokenMatch (s.timestamp i)) :
    exec .validate s = .next { s with found := true, result := s.timestamp k } := by
  have hsearch : validateSearch s = some (s.timestamp k) :=
    searchFrom_first (lt_maxAge_toNat_iff.mpr hk) (validateMatches_iff_tokenMatch.mpr hm) fun i hi =>
      Bool.eq_false_iff.mpr fun hi' => hbefore i hi (validateMatches_iff_tokenMatch.mp hi')
  rw [exec_validate_ready h, hsearch]
  rfl

/-- VALIDATE reports that no candidate of the window matches (R77). -/
theorem exec_validate_notFound (h : s.ValidateReady)
    (hnone : ∀ k : Nat, (k : Int) < s.arg2.toInt → ¬s.TokenMatch (s.timestamp k)) :
    exec .validate s = .next { s with found := false, result := 0 } := by
  have hsearch : validateSearch s = none := (searchFrom_eq_none _ _).mpr fun k hk => by
    rw [Nat.zero_add]
    exact Bool.eq_false_iff.mpr fun hm => hnone k (lt_maxAge_toNat_iff.mp hk) (validateMatches_iff_tokenMatch.mp hm)
  rw [exec_validate_ready h, hsearch]
  rfl

end Validate

/-! ## BRUTE (R79 to R81) -/

section Brute

variable {s : State}

/-- BRUTE's checks, on the ARG registers. -/
theorem firstFault_bruteChecks :
    firstFault (bruteChecks s) =
      if s.arg1 < s.arg3 then some .suffixLong
      else if s.arg0.toNat + s.arg1.toNat ≤ 2 ^ 32 ∧ s.arg2.toNat + s.arg3.toNat ≤ 2 ^ 32 then none
      else some .range := by
  have hvalid : (!s.cipherIn.valid || !s.suffixIn.valid) = true ↔
      ¬(s.arg0.toNat + s.arg1.toNat ≤ 2 ^ 32 ∧ s.arg2.toNat + s.arg3.toNat ≤ 2 ^ 32) := by
    simp only [Bool.or_eq_true, Bool.not_eq_true', Buffer.valid_eq_false, State.cipherIn, State.suffixIn]
    omega
  simp only [bruteChecks, firstFault, hvalid, ite_not, decide_eq_true_eq]
  rfl

theorem exec_brute_suffixLong (hf : s.fault = 0) (hlen : s.arg1 < s.arg3) :
    exec .brute s = .next (s.raiseFault .suffixLong) := by
  rw [exec_eq]
  exact runCommand_fault hf (firstFault_bruteChecks.trans (if_pos hlen)) _

theorem exec_brute_range (hf : s.fault = 0) (hlen : s.arg3 ≤ s.arg1)
    (hout : 2 ^ 32 < s.arg0.toNat + s.arg1.toNat ∨ 2 ^ 32 < s.arg2.toNat + s.arg3.toNat) :
    exec .brute s = .next (s.raiseFault .range) := by
  have hc : firstFault (bruteChecks s) = some .range := by
    rw [firstFault_bruteChecks, if_neg (BitVec.not_lt.mpr hlen), if_neg (by omega)]
  rw [exec_eq]
  exact runCommand_fault hf hc _

theorem exec_brute_ready (h : s.BruteReady) : exec .brute s = .next (s.reportSlot (bruteSearch s)) := by
  have hc : firstFault (bruteChecks s) = none := by
    rw [firstFault_bruteChecks, if_neg (BitVec.not_lt.mpr h.short), if_pos ⟨h.cipher, h.suffix⟩]
  rw [exec_eq]
  exact runCommand_effect h.running hc _

/-- BRUTE's comparator, on candidate k, decides R80's match with the number k. -/
theorem bruteMatches_feeder_iff (h : s.BruteReady) {k : Nat} (hk : k < 65536) :
    bruteMatches (s.bm.buffer s.cipherIn) (s.bm.buffer s.suffixIn) (bruteFeeder k) = true ↔
      s.SuffixMatch (BitVec.ofNat 32 k) := by
  have hlen : s.suffixIn.len ≤ s.cipherIn.len := BitVec.le_def.mp h.short
  rw [bruteFeeder_eq hk, bruteMatches_iff hlen]
  rfl

/-- BRUTE reports the lowest seed that matches (R81). -/
theorem exec_brute_found (h : s.BruteReady) {k : Nat} (hk : k < 65536) (hm : s.SuffixMatch (BitVec.ofNat 32 k))
    (hbefore : ∀ i < k, ¬s.SuffixMatch (BitVec.ofNat 32 i)) :
    exec .brute s = .next { s with found := true, result := BitVec.ofNat 32 k } := by
  have hsearch : bruteSearch s = some (bruteFeeder k) :=
    searchFrom_first hk ((bruteMatches_feeder_iff h hk).mpr hm) fun i hi =>
      Bool.eq_false_iff.mpr fun hi' => hbefore i hi ((bruteMatches_feeder_iff h (hi.trans hk)).mp hi')
  rw [exec_brute_ready h, hsearch, bruteFeeder_eq hk]
  rfl

/-- BRUTE reports that no seed matches (R81). -/
theorem exec_brute_notFound (h : s.BruteReady) (hnone : ∀ k < 65536, ¬s.SuffixMatch (BitVec.ofNat 32 k)) :
    exec .brute s = .next { s with found := false, result := 0 } := by
  have hsearch : bruteSearch s = none := (searchFrom_eq_none _ _).mpr fun k hk => by
    rw [Nat.zero_add]
    exact Bool.eq_false_iff.mpr fun hm => hnone k hk ((bruteMatches_feeder_iff h hk).mp hm)
  rw [exec_brute_ready h, hsearch]
  rfl

end Brute

/-- A ciphertext that CRYPT made under a freshly seeded generator, searched with the plaintext's last bytes as suffix, matches
under that seed: XORing with the same keystream byte again gives the plaintext byte back (R84). -/
theorem suffixMatch_of_crypt {v : Word} {s u : State} (hs : s.CryptReadsAhead) (hG0 : s.g0 = Generator.fresh v)
    (hu : u.arg3 ≤ u.arg1) (hlen : u.arg1 = s.arg2)
    (hct : ∀ j < s.arg2.toNat, u.bm.read (u.arg0.toNat + j) = (effectOf .crypt s).bm.read (s.arg1.toNat + j))
    (hsuf : ∀ j < u.arg3.toNat,
      u.bm.read (u.arg2.toNat + j) = s.bm.read (s.arg0.toNat + (s.arg2.toNat - u.arg3.toNat + j))) :
    u.SuffixMatch v := by
  intro j hj
  rw [hlen, BitVec.le_def] at hu
  have hpos : s.arg2.toNat - u.arg3.toNat + j < s.arg2.toNat := by omega
  rw [hlen, hct _ hpos, effectOf_crypt_byte_of_readsAhead hs hpos, hG0, hsuf j hj, BitVec.xor_assoc, BitVec.xor_self,
    BitVec.xor_zero]

/-! ## G0 (R83) -/

/-- The three commands do the same whatever generator stands in G0, and keep it. -/
theorem ignores_setG0 {i : Instr} (hi : i = .gentoken ∨ i = .validate ∨ i = .brute) (g : Generator) :
    Ignores i (·.setG0 g) := by
  rcases hi with rfl | rfl | rfl
  all_goals constructor <;> intros <;> rfl

/-- A command that ignores every change of G0 leaves G0 as it was: the change to what G0 holds already is one of them. -/
theorem g0_eq_of_ignores {i : Instr} (hi : ∀ g : Generator, Ignores i (·.setG0 g)) {s t : State}
    (h : exec i s = .next t) : t.g0 = s.g0 := by
  have hset : exec i s = .next (t.setG0 s.g0) := (hi s.g0).exec h
  have ht : t = t.setG0 s.g0 := Host.Outcome.next.inj (h.symm.trans hset)
  exact (congrArg State.g0 ht).trans (t.setG0_g0 s.g0)

/-! ## The statements -/

/-- Settles O28: GENTOKEN writes the run of the token's bytes, behind its one check. -/
theorem gentokenWritesTheToken : Obligations.GentokenWritesTheToken := by
  intro s hf
  refine ⟨fun hout => ⟨_, exec_gentoken_ready hf hout, fun j hj => ?_, fun a ha => ?_⟩, exec_gentoken_range hf⟩
  · have hj' : j < (token s.arg0).length := by rwa [length_token]
    rw [Memory.read_writeBytes_inside hj', getElem_token hj', Generator.keyByte]
  · exact Memory.read_writeBytes_outside (by rwa [length_token])

/-- Settles O29: one rule for each of VALIDATE's checks, and one for each thing its search can report. -/
theorem validateReportsTheFirstMatch : Obligations.ValidateReportsTheFirstMatch := fun _ hf =>
  ⟨exec_validate_maxage hf, exec_validate_range hf, fun h =>
    ⟨⟨_, _, exec_validate_ready h⟩, fun _ => exec_validate_found h, exec_validate_notFound h⟩⟩

/-- Settles O30: timestamp d matches, so the least matching k is at most d. -/
theorem validateFindsATokenInTheWindow : Obligations.ValidateFindsATokenInTheWindow := by
  intro s d h hd hlen htok
  have hmatch : s.TokenMatch (s.timestamp d) := ⟨hlen, fun j hj => (htok j hj).symm⟩
  obtain ⟨k, hkd, hk⟩ := exists_minimal_le_of_wellFoundedLT (fun k => s.TokenMatch (s.timestamp k)) d hmatch
  exact ⟨k, hkd, exec_validate_found h (by omega) hk.prop fun _ hi => hk.not_prop_of_lt hi⟩

/-- Settles O31: one rule for each of BRUTE's checks, and one for each thing its search can report. -/
theorem bruteReportsTheLowestSeed : Obligations.BruteReportsTheLowestSeed := fun _ hf =>
  ⟨exec_brute_suffixLong hf, exec_brute_range hf, fun h =>
    ⟨⟨_, _, exec_brute_ready h⟩, fun _ => exec_brute_found h, exec_brute_notFound h⟩⟩

/-- Settles O33: the seed itself matches, so the least matching k is at most the seed, and is the seed exactly when no lower
one matches. -/
theorem bruteRecoversTheSeed : Obligations.BruteRecoversTheSeed := by
  intro seed s t u hs hsAhead hsG0 ht hu hlen hct hsuf
  obtain rfl := eq_effectOf_of_exec_crypt hs ht
  have hmatch : u.SuffixMatch (BitVec.ofNat 32 seed.toNat) := by
    rw [BitVec.ofNat_toNat]
    exact suffixMatch_of_crypt hsAhead hsG0 hu.short hlen hct hsuf
  obtain ⟨k, hkSeed, hk⟩ :=
    exists_minimal_le_of_wellFoundedLT (fun k => u.SuffixMatch (BitVec.ofNat 32 k)) seed.toNat hmatch
  have hlt : k < 65536 := hkSeed.trans_lt seed.isLt
  refine ⟨_, exec_brute_found hu hlt hk.prop fun _ hi => hk.not_prop_of_lt hi, rfl, by bv_omega, ?_⟩
  have hresult : BitVec.ofNat 32 k = seed.zeroExtend 32 ↔ k = seed.toNat := by bv_omega
  refine hresult.trans ⟨fun heq i hi => hk.not_prop_of_lt (heq ▸ hi), fun hnone => ?_⟩
  by_contra hne
  exact hnone k (by omega) hk.prop

/-- Settles O34: the three commands ignore a change of G0. -/
theorem searchCommandsAreIsolatedFromG0 : Obligations.SearchCommandsAreIsolatedFromG0 := fun _ _ _ hi h =>
  ⟨g0_eq_of_ignores (ignores_setG0 hi) h, fun g => (ignores_setG0 hi g).exec h⟩

/-- Settles O32: an empty suffix leaves no byte to compare, so seed 0 matches, and no seed is lower. -/
theorem emptySuffixFindsSeedZero : Obligations.EmptySuffixFindsSeedZero := by
  intro s h hlen
  have hmatch : s.SuffixMatch (BitVec.ofNat 32 0) := by simp [State.SuffixMatch, hlen]
  exact exec_brute_found h (k := 0) (by decide) hmatch nofun

end Sys2Proof.Machine

/-! The proofs of the statements about faults and the machine's invariant (60_exceptions.md).

First which commands can raise UNSEEDED, and what CRYPT's checks say. Then the invariant: what a command's effect leaves of
G0's lineage and of buffer memory, and that every operation keeps the whole. Then the statements. -/

namespace Sys2Proof.Machine

/-! ## What the checks say (60_exceptions.md R88, R95) -/

theorem FaultCode.eq_unseeded_of_code {c : FaultCode} (h : c.code = 2) : c = .unseeded := by
  cases c with
  | unseeded => rfl
  | illegalCmd | outbufShort | maxageInvalid | suffixLong | range => exact absurd h (by decide)

/-- Only EXTRACT and CRYPT check that G0 is seeded. -/
theorem command_of_firstFault_unseeded {i : Instr} {s : State} (h : firstFault (checksOf i s) = some .unseeded) :
    i = .extract ∨ i = .crypt := by
  have hmem := mem_of_firstFault h
  cases i with
  | extract | crypt => decide
  | seed | gentoken | validate | brute => simp [checksOf, validateChecks, bruteChecks] at hmem

/-- What CRYPT's passed checks say of G0 and of the output buffer (41_stream_cipher.md R70). -/
theorem cryptChecks_pass {s : State} (hc : firstFault (cryptChecks s) = none) :
    s.g0.seeded = true ∧ s.cryptIn.len ≤ s.cryptOut.len ∧ s.cryptOut.base + s.cryptOut.len ≤ 2 ^ 32 := by
  simp only [firstFault_eq_none, cryptChecks, List.forall_mem_cons, Bool.not_eq_false', Bool.or_eq_false_iff,
    decide_eq_false_iff_not, Nat.not_lt, Buffer.valid_eq_true] at hc
  obtain ⟨hs, hlen, ⟨_, hout⟩, _⟩ := hc
  exact ⟨hs, hlen, hout⟩

/-! ## G0 descends from a seeding (10_state.md R20, R31) -/

theorem Generator.descends_fresh (v : Word) : (Generator.fresh v).Descends := ⟨v, 0, rfl⟩

theorem Generator.Descends.advance {g : Generator} (h : g.Descends) (k : Nat) : (g.advance k).Descends := by
  obtain ⟨v, j, rfl⟩ := h
  exact ⟨v, j + k, (Generator.advance_add (.fresh v) j k).symm⟩

theorem Generator.Descends.seeded {g : Generator} (h : g.Descends) : g.seeded = true := by
  obtain ⟨v, k, rfl⟩ := h
  simp

/-- Everything a command that passes its checks can do to G0: nothing, a seeding, or extractions from a seeded G0. -/
theorem effectOf_g0_cases {i : Instr} {s : State} (hc : firstFault (checksOf i s) = none) :
    (effectOf i s).g0 = s.g0 ∨
    (∃ v, (effectOf i s).g0 = .fresh v) ∨
    (s.g0.seeded = true ∧ ∃ k, (effectOf i s).g0 = s.g0.advance k) := by
  cases i with
  | seed => exact .inr (.inl ⟨s.arg0, rfl⟩)
  | extract => exact .inr (.inr ⟨by simpa [firstFault_eq_none, checksOf] using hc, 1, rfl⟩)
  | crypt =>
    obtain ⟨hs, _⟩ := cryptChecks_pass hc
    exact .inr (.inr ⟨hs, s.arg2.toNat, effectOf_crypt_g0⟩)
  | gentoken => exact .inl (effectOf_gentoken_core s).g0
  | validate | brute => exact .inl rfl

/-! ## Buffer memory stays in canonical form -/

/-- The checks of a command that writes buffer memory keep its writes below the top (20_memory.md R36, R41). -/
theorem effectOf_bm_wf {i : Instr} {s : State} (hm : s.bm.wf) (hc : firstFault (checksOf i s) = none) :
    (effectOf i s).bm.wf := by
  cases i with
  | seed | extract | validate | brute => exact hm
  | crypt =>
    obtain ⟨_, hlen, hvalid⟩ := cryptChecks_pass hc
    have hout : s.cryptOut.base + s.cryptIn.len ≤ 2 ^ 32 := by omega
    exact cryptLoop_wf _ _ _ _ hm hout
  | gentoken =>
    have hout : s.tokenOut.base + (token s.arg0).length ≤ 2 ^ 32 := by
      simpa [firstFault_eq_none, checksOf, Buffer.valid_eq_true, State.tokenOut] using hc
    exact Memory.wf_writeBytes hm hout

/-! ## The invariant -/

section Invariant

variable {s t : State}

/-- The invariant speaks of G0, the fault code and buffer memory alone. -/
theorem State.Inv.of_eq (h : s.Inv) (hg0 : t.g0 = s.g0) (hfault : t.fault = s.fault) (hbm : t.bm.wf) : t.Inv :=
  ⟨hbm, hfault ▸ h.code, hg0 ▸ h.lineage, hg0 ▸ h.unseeded⟩

/-- Of a G0 that descends from a seeding the invariant asks nothing more, whatever G0 was before. -/
theorem State.Inv.of_descends (h : s.Inv) (hg0 : t.g0.Descends) (hfault : t.fault = s.fault) (hbm : t.bm.wf) : t.Inv :=
  ⟨hbm, hfault ▸ h.code, fun _ => hg0, fun hs => by simp [hg0.seeded] at hs⟩

theorem raiseFault_inv (h : s.Inv) (c : FaultCode) : (s.raiseFault c).Inv :=
  ⟨h.memory, (State.code_range c).2, h.lineage, h.unseeded⟩

theorem effectOf_inv {i : Instr} (h : s.Inv) (hc : firstFault (checksOf i s) = none) : (effectOf i s).Inv := by
  have hbm : (effectOf i s).bm.wf := effectOf_bm_wf h.memory hc
  rcases effectOf_g0_cases hc with hg0 | ⟨v, hg0⟩ | ⟨hs, k, hg0⟩
  · exact h.of_eq hg0 (effectOf_fault i s) hbm
  · exact h.of_descends (hg0 ▸ Generator.descends_fresh v) (effectOf_fault i s) hbm
  · exact h.of_descends (hg0 ▸ (h.lineage hs).advance k) (effectOf_fault i s) hbm

theorem writeCmd_inv {w : Word} (h : s.Inv) (hw : writeCmd w s = .next t) : t.Inv := by
  rcases writeCmd_cases hw with rfl | ⟨_, c, rfl⟩ | ⟨_, i, _, hc, rfl⟩
  · exact h
  · exact raiseFault_inv h c
  · exact effectOf_inv h hc

theorem writeReg_inv {r : WindowReg} {v : Word} (h : s.Inv) (hr : r ≠ .cmd) (hw : writeReg r v s = .next t) : t.Inv := by
  obtain ⟨hg0, _, _, hfault, hbm⟩ := writeReg_frame hr hw
  exact h.of_eq hg0 hfault (hbm ▸ h.memory)

theorem coreReset_inv (h : s.Inv) : s.coreReset.Inv := ⟨h.memory, by simp, nofun, fun _ => rfl⟩

end Invariant

/-! ## The statements -/

/-- Settles O43: a case per host operation; only a command's effect, a fault, a host memory write and the reset touch what the
invariant speaks of. -/
theorem stepKeepsTheInvariant : Obligations.StepKeepsTheInvariant := by
  intro s t hs h
  rcases step_cases h with ⟨_, rfl⟩ | ⟨op, later, _, hop⟩
  · exact hs
  · have hlater : (s.setHostOps later).Inv := hs.of_eq rfl rfl hs.memory
    rcases hop with ⟨v, _, hw⟩ | ⟨v, r, hr, _, hw⟩ | ⟨r, _, rfl⟩ | ⟨a, b, _, hab, rfl⟩ | ⟨a, n, _, _, rfl⟩ | ⟨_, rfl⟩
    · exact writeCmd_inv hlater hw
    · exact writeReg_inv hlater hr hw
    · exact hlater.of_eq rfl rfl hlater.memory
    · exact hlater.of_eq rfl rfl (Memory.wf_writeBytes hs.memory hab)
    · exact hlater.of_eq rfl rfl hlater.memory
    · exact coreReset_inv hlater

/-- Settles O15: the rule of each command's fault; and code 2 is UNSEEDED, which only EXTRACT and CRYPT check. -/
theorem faultsByPriority : Obligations.FaultsByPriority := by
  intro s hf
  refine ⟨fun w hw => ?_, fun hs => ⟨exec_extract_unseeded hf hs, exec_crypt_unseeded hf hs⟩, exec_crypt_short hf,
    exec_crypt_range hf, exec_gentoken_range hf, exec_validate_maxage hf, exec_validate_range hf, exec_brute_suffixLong hf,
    exec_brute_range hf, fun i t h ht => ?_⟩
  · rw [step_withCmdWrite]
    cases hd : decode w with
    | command i => exact absurd hd (hw i)
    | illegal why => exact writeCmd_of_illegal hd hf
  · rcases exec_cases h with ⟨hne, _⟩ | ⟨_, c, hc, rfl⟩ | ⟨_, _, rfl⟩
    · exact absurd hf hne
    · rw [FaultCode.eq_unseeded_of_code ht] at hc
      exact command_of_firstFault_unseeded hc
    · simp [hf] at ht

/-- Settles O16: of the three things a CMD write can do, only recording a fault changes the code. -/
theorem faultChangesOnlyTheCode : Obligations.FaultChangesOnlyTheCode := by
  intro s t w h hne
  rw [step_withCmdWrite] at h
  rcases writeCmd_cases h with rfl | ⟨hf, c, rfl⟩ | ⟨_, i, _, _, rfl⟩
  · exact absurd rfl hne
  · obtain ⟨hlow, hhigh⟩ := State.code_range c
    exact ⟨hf, hlow, hhigh, rfl⟩
  · exact absurd (effectOf_fault i s) hne

/-- Settles O2: a step carries out the oldest pending operation, and here there is none. -/
theorem idleCoreHoldsItsState : Obligations.IdleCoreHoldsItsState := fun _ => step_of_nil

end Sys2Proof.Machine

/-! The proofs of the statements about termination and operation counts (70_reset_and_hazards.md R111, R112).

First how many candidates a search examines and how often a freshly seeded generator twists. Then the rows of R111's table
that need an argument, and the statements. -/

namespace Sys2Proof.Machine

/-! ## How many candidates a search examines (R112) -/

/-- A search examines no more candidates than its feeder gives. -/
theorem examined_le (feeder : Nat → Word) (isMatch : Word → Bool) (k count : Nat) :
    examined feeder isMatch k count ≤ count := by
  induction count generalizing k with
  | zero => exact Nat.le_refl 0
  | succ n ih =>
    rw [examined]
    split
    · exact Nat.succ_pos n
    · exact Nat.succ_le_succ (ih (k + 1))

theorem validateExamined_le (s : State) : validateExamined s ≤ s.maxAge.toNat := examined_le ..

theorem bruteExamined_le (s : State) : bruteExamined s ≤ 65536 := examined_le ..

/-- The largest MAX_AGE that 32 bits read as signed can hold. -/
theorem maxAge_toNat_le (s : State) : s.maxAge.toNat ≤ 2 ^ 31 - 1 := by
  have hlt : s.maxAge < 2 ^ 31 := BitVec.toInt_lt
  omega

/-! ## The work of a scratch generator (R111) -/

/-- A freshly seeded generator twists at every 624th extraction, the first included: ceil(k / 624) times in k. -/
theorem twistsIn_fresh (v : Word) (k : Nat) : (Generator.fresh v).twistsIn k = (k + 623) / 624 := by
  induction k with
  | zero => rfl
  | succ k ih =>
    rw [twistsIn_succ, ih, if_congr (advance_fresh_idx_eq_N_iff v k) rfl rfl]
    split <;> omega

/-- What a candidate costs depends on how much is extracted, not on the seed. -/
theorem scratchWork_eq (seed : Word) (k : Nat) : scratchWork seed k = ⟨1, (k + 623) / 624, k, 0, 0⟩ := by
  rw [scratchWork, twistsIn_fresh]

/-- One token (42_seed_search.md R73) takes one twist. -/
theorem scratchWork_tokenLen (seed : Word) : scratchWork seed Config.tokenLen = ⟨1, 1, 32, 0, 0⟩ :=
  scratchWork_eq seed 32

/-! ## The rows of R111's table -/

theorem work_extract (s : State) : work .extract s = ⟨0, if s.g0.idx.val = 624 then 1 else 0, 1, 0, 0⟩ := by
  rw [work, twistsIn_succ, twistsIn_zero, Nat.zero_add, Generator.advance_zero]

theorem work_gentoken (s : State) : work .gentoken s = ⟨1, 1, 32, 0, 32⟩ := by
  rw [work, scratchWork_tokenLen]
  rfl

/-- VALIDATE's token has a token's length exactly when ARG1 says so (42_seed_search.md R76). -/
theorem tokenIn_len_eq_iff {s : State} : s.tokenIn.len = Config.tokenLen ↔ s.arg1 = 32 :=
  BitVec.toNat_inj (x := s.arg1) (y := 32)

/-- A candidate of VALIDATE costs a token when the observed one is 32 bytes long. -/
theorem validateCost_of_len {s : State} (h : s.arg1 = 32) (c : Word) : validateCost s c = ⟨1, 1, 32, 0, 0⟩ := by
  rw [validateCost, if_pos (tokenIn_len_eq_iff.mpr h), scratchWork_tokenLen]

/-- With any other length no token is generated. -/
theorem validateCost_of_len_ne {s : State} (h : s.arg1 ≠ 32) (c : Word) : validateCost s c = ⟨0, 0, 0, 0, 0⟩ :=
  if_neg (mt tokenIn_len_eq_iff.mp h)

/-- VALIDATE's work when every candidate costs the same: the candidates examined, and the token read once. -/
theorem work_validate_of_cost {s : State} {cost : Work} (h : ∀ c, validateCost s c = cost) :
    work .validate s =
      ⟨validateExamined s * cost.inits, validateExamined s * cost.twists, validateExamined s * cost.tempers,
        validateExamined s * cost.bmRead + s.arg1.toNat, validateExamined s * cost.bmWritten⟩ := by
  rw [work, searchWork_const fun _ => h _]
  rfl

theorem work_validate_of_len {s : State} (h : s.arg1 = 32) :
    work .validate s = ⟨validateExamined s, validateExamined s, 32 * validateExamined s, 32, 0⟩ := by
  have hlen : s.arg1.toNat = 32 := tokenIn_len_eq_iff.mpr h
  simp [work_validate_of_cost (validateCost_of_len h), hlen, Nat.mul_comm]

theorem work_validate_of_len_ne {s : State} (h : s.arg1 ≠ 32) : work .validate s = ⟨0, 0, 0, s.arg1.toNat, 0⟩ := by
  simp [work_validate_of_cost (validateCost_of_len_ne h)]

/-- Every candidate of BRUTE decrypts the whole ciphertext; both buffers are read once. -/
theorem work_brute (s : State) :
    work .brute s = ⟨bruteExamined s, bruteExamined s * ((s.arg1.toNat + 623) / 624), bruteExamined s * s.arg1.toNat,
      s.arg1.toNat + s.arg3.toNat, 0⟩ := by
  rw [work, searchWork_const fun _ => scratchWork_eq _ _]
  simp [Work.add, bruteExamined, State.cipherIn, State.suffixIn]

/-! ## The statements -/

/-- Settles O4: every command is an effect behind checks; a length is a 32-bit word, and a search stops with its feeder. -/
theorem everyCommandTerminates : Obligations.EveryCommandTerminates :=
  ⟨exec_next, fun s => ⟨Nat.le_pred_of_lt s.arg2.isLt, validateExamined_le s, maxAge_toNat_le s, bruteExamined_le s⟩⟩

/-- Settles O45: the rows of SEED and CRYPT are `work`'s own; a search costs the same for every candidate it examines. -/
theorem operationCounts : Obligations.OperationCounts := fun s =>
  ⟨rfl, work_extract s, rfl, work_gentoken s, work_validate_of_len, work_validate_of_len_ne, work_brute s,
    (validateExamined_le s).trans (maxAge_toNat_le s), bruteExamined_le s⟩

end Sys2Proof.Machine
